-- ==== Sys2Proof/Word.lean ====
section
/-! DEFINITION. The two scalar types of the engine and its two files of eight words (00_scope.md R7, R14, R15;
10_state.md R20, R28, R36). -/

namespace Sys2Proof

/-- `u8` (00_scope.md R14): one payload, buffer or digest byte. -/
abbrev Byte := BitVec 8

/-- `u64` (00_scope.md R7): a hash word, working variable, schedule word or round constant. `+`, `&&&`, `|||`,
`^^^` and `~~~` are the wrapping addition and bitwise operators of R15. -/
abbrev Word := BitVec 64

/-- The hash word file `H[0..7]` (10_state.md R20, R28): eight words, no aliases, no hardwired entry. -/
structure HashWords where
  h0 : Word
  h1 : Word
  h2 : Word
  h3 : Word
  h4 : Word
  h5 : Word
  h6 : Word
  h7 : Word
  deriving DecidableEq, Repr

/-- The working variables `a .. h` of one compression (10_state.md R36). Not architectural (R37). -/
structure Working where
  a : Word
  b : Word
  c : Word
  d : Word
  e : Word
  f : Word
  g : Word
  h : Word
  deriving DecidableEq, Repr

/-- `H[0], H[1], ..., H[7]` in order. -/
def HashWords.toList (x : HashWords) : List Word := [x.h0, x.h1, x.h2, x.h3, x.h4, x.h5, x.h6, x.h7]

end Sys2Proof
end

