-- ==== Sys2Proof/Config.lean ====
section
/-! DEFINITION. The fixed parameters of 00_scope.md section 4, and the free values: opaque constants without a body,
for the register contents the spec calls unspecified (93_implementation_defined.md U1 to U4). A value is named by the
number of its draw and its register alone. DESIGN CHOICE, unsafe for a claim that compares two engine instances: two whose
counts of draws are equal draw equal values, where the spec relates none (log entry 15). -/

namespace Sys2Proof

/-- BLOCK_BYTES (00_scope.md R8). -/
def Config.blockBytes : Nat := 128

/-- ROUNDS and schedule length (00_scope.md R9). -/
def Config.rounds : Nat := 80

/-- DIGEST_BYTES (00_scope.md R10). -/
def Config.digestBytes : Nat := 64

/-- MAX_BYTES, the longest message in bytes (00_scope.md R12). -/
def Config.maxBytes : Nat := 2 ^ 125 - 1

/-- FREE VALUE: the word that hash register `slot` holds after draw number `draw` (log entry 4). DESIGN CHOICE, safe. -/
opaque Config.freeWord (draw slot : Nat) : BitVec 64

/-- FREE VALUE: the byte that buffer register `slot` holds after draw number `draw` (log entries 4, 5, 6). DESIGN
CHOICE, safe. -/
opaque Config.freeByte (draw slot : Nat) : BitVec 8

/-- FREE VALUE: what `BUF_LEN` holds after draw number `draw` (log entries 4, 6). DESIGN CHOICE, safe. -/
opaque Config.freeCount (draw : Nat) : BitVec 7

/-- FREE VALUE: what `TOTAL_LEN` holds after draw number `draw` (log entries 4, 6). DESIGN CHOICE, safe. -/
opaque Config.freeTotal (draw : Nat) : BitVec 128

end Sys2Proof
end

