-- ==== Sys2Proof/Syntax.lean ====
section
/-! DEFINITION. Commands as the host sends them (a word and a payload) and as the engine understands them: one
constructor of `Instr` for each row of spec/opcode_table.json (30_encoding.md sections 1 and 2). -/

namespace Sys2Proof

/-- A command as the host issues it: the pair `(cmd, payload)` (30_encoding.md R58). The payload's length is carried
with the payload. -/
structure Command where
  word    : BitVec 32
  payload : List Byte
  deriving DecidableEq, Repr

/-- The four commands of the engine (30_encoding.md R63). UPDATE and DIGEST carry a payload of any length; CREATE and
FINALIZE carry none (R61). -/
inductive Instr where
  /-- CREATE, 40_streaming.md R77. -/
  | create
  /-- UPDATE, 40_streaming.md R78. -/
  | update (payload : List Byte)
  /-- FINALIZE, 40_streaming.md R85. -/
  | finalize
  /-- DIGEST, 40_streaming.md R87. -/
  | digest (payload : List Byte)
  deriving DecidableEq, Repr

end Sys2Proof
end

