-- ==== Sys2Proof/WellFormed.lean ====
section
/-! DEFINITION. The checks a command must pass to be legal (30_encoding.md R59 to R61, R65). Every term of `Instr` is
a legal command by its type, so the checks stand on `Command`, the form in which a command can be ill-formed. -/

namespace Sys2Proof

/-- `OPC = cmd[3:0]` (30_encoding.md R59). -/
def Command.opc (c : Command) : BitVec 4 := c.word.extractLsb' 0 4

/-- `RSVD = cmd[31:4]` (30_encoding.md R60). -/
def Command.rsvd (c : Command) : BitVec 28 := c.word.extractLsb' 4 28

/-- RSVD must be 0 (30_encoding.md R60). -/
def Command.reservedClear (c : Command) : Bool := c.rsvd == 0

/-- OPC `0x1` to `0x4` are the operation codes; `0x0` and `0x5` to `0xF` are reserved (30_encoding.md R65). -/
def Command.opcLegal (c : Command) : Bool := c.opc == 1 || c.opc == 2 || c.opc == 3 || c.opc == 4

/-- CREATE and FINALIZE take an empty payload (30_encoding.md R61). -/
def Command.payloadAllowed (c : Command) : Bool := !(c.opc == 1 || c.opc == 3) || c.payload.isEmpty

/-- A legal command: the three checks together (30_encoding.md R64). -/
def Command.wf (c : Command) : Bool := c.reservedClear && c.opcLegal && c.payloadAllowed

end Sys2Proof
end

