-- ==== Sys2Proof/Decode.lean ====
section
/-! DEFINITION. Decoding, total on every 32-bit word and every payload, rejecting by name; then the encoder
(30_encoding.md R58 to R65). -/

namespace Sys2Proof

/-- Why a command is illegal. All three raise ILLEGAL_COMMAND (60_exceptions.md R118). -/
inductive Illegal where
  /-- A bit of `cmd[31:4]` is set (30_encoding.md R60). -/
  | reservedBits
  /-- OPC is `0x0` or `0x5` to `0xF` (30_encoding.md R65). -/
  | reservedOpcode
  /-- CREATE or FINALIZE with a payload (30_encoding.md R61). -/
  | payloadNotEmpty
  deriving DecidableEq, Repr

/-- `Command or Illegal`, the result of `Decode` (30_encoding.md R64). -/
inductive Decoded where
  | legal (i : Instr)
  | illegal (why : Illegal)
  deriving DecidableEq, Repr

/-- A command that admits no payload: `i` if the payload is empty (30_encoding.md R61). -/
def withoutPayload (c : Command) (i : Instr) : Decoded :=
  if c.payload = [] then .legal i else .illegal .payloadNotEmpty

/-- `Decode(cmd, payload)` (30_encoding.md R64). -/
def decode (c : Command) : Decoded :=
  if c.rsvd ≠ 0 then .illegal .reservedBits
  else if c.opc = 0x1 then withoutPayload c .create
  else if c.opc = 0x2 then .legal (.update c.payload)
  else if c.opc = 0x3 then withoutPayload c .finalize
  else if c.opc = 0x4 then .legal (.digest c.payload)
  else .illegal .reservedOpcode

/-- The command word of each command (30_encoding.md R63). -/
def Instr.word : Instr → BitVec 32
  | .create => 0x00000001
  | .update _ => 0x00000002
  | .finalize => 0x00000003
  | .digest _ => 0x00000004

/-- The payload each command carries (30_encoding.md R61). -/
def Instr.payload : Instr → List Byte
  | .create => []
  | .update p => p
  | .finalize => []
  | .digest p => p

/-- The command that stands for an instruction (30_encoding.md R63; every `Instr` is well-formed). -/
def encode (i : Instr) : Command := ⟨i.word, i.payload⟩

/-- The command whose word is the low `nbits` bits of `w`, bit 0 the least significant (00_scope.md R14), with an
empty payload. The command word is one 32-bit word; no byte order enters (10_state.md R38; 20_memory.md R43; log entry 9). -/
def tableCommand (nbits w : Nat) : Command := ⟨BitVec.ofNat 32 (w % 2 ^ nbits), []⟩

/-- The instruction `decode` reads from the table's bits `w`; none where it refuses. -/
def decodeTableWord (nbits w : Nat) : Option Instr :=
  match decode (tableCommand nbits w) with
  | .legal i => some i
  | .illegal _ => none

end Sys2Proof
end

