-- ==== Sys2Proof/Machine/State.lean ====
section
/-! DEFINITION. The engine's state as plain data (10_state.md), the host's side of the interface (70_reset_and_hazards.md
section 3), the reasons a step could stop, and the state right after reset (R134). -/

namespace Sys2Proof.Machine

/-- `STATE`, the lifecycle register (10_state.md R24). The value 3 is never held, so it has no constructor. -/
inductive Lifecycle where
  /-- 0: no CREATE or DIGEST since reset. -/
  | uninit
  /-- 1: a message is being absorbed. -/
  | active
  /-- 2: the digest has been returned. -/
  | finalized
  deriving DecidableEq, Repr

/-- What a command returns: the STATUS word and, for a successful FINALIZE or DIGEST, the digest (30_encoding.md
R67, R68). -/
structure Response where
  status : BitVec 32
  digest : Option (List Byte)
  deriving DecidableEq, Repr

/-- What the host can do (70_reset_and_hazards.md section 3; log entry 1). -/
inductive HostMove where
  /-- Issue a command; the host does so only when none is outstanding (R139), so the move waits until then. -/
  | issue (c : Command)
  /-- Make no move during this step. -/
  | wait
  /-- Reset the engine, at any time, also while a command is outstanding (R134). -/
  | reset
  deriving DecidableEq, Repr

/-- The state of one engine instance. The first five fields are the context registers of 10_state.md; `outstanding`
is the command in progress; `host`, `responses` and `draws` are the model's own (log entries 1, 2 and 4). -/
structure State where
  /-- `H[0..7]` (R20). -/
  hash        : HashWords
  /-- `BUF[0..127]` (R21). -/
  buf         : Vector Byte 128
  /-- `BUF_LEN` (R22). -/
  bufLen      : BitVec 7
  /-- `TOTAL_LEN` (R23). -/
  totalLen    : BitVec 128
  /-- `STATE` (R24). -/
  lifecycle   : Lifecycle
  /-- The command issued and not yet answered; at most one (R139). -/
  outstanding : Option Command
  /-- The host's moves still to come, next one first. -/
  host        : List HostMove
  /-- Every response returned so far, newest first (60_exceptions.md R123). -/
  responses   : List Response
  /-- How many free values have been drawn. -/
  draws       : Nat
  deriving DecidableEq, Repr

/-- Reasons the machine could stop with a fault. There is none: an error is a response, after which the engine goes on
(60_exceptions.md R122, R123), and every command completes (70_reset_and_hazards.md R141). Log entry 10. -/
inductive Fault where
  deriving DecidableEq, Repr

/-- Reasons a step could have no meaning. -/
inductive Refusal where
  /-- An instruction without a meaning yet, raised by an arm of `exec`. Safe: the model stops. No arm raises it. -/
  | notModelled (mnemonic : String)
  deriving DecidableEq, Repr

/-- The engine right after reset (70_reset_and_hazards.md R134): `STATE` is UNINIT and no command is outstanding.
The spec leaves the four other registers unspecified; they hold zero here. DESIGN CHOICE, unsafe, log entry 3. -/
def State.reset : State where
  hash        := ⟨0, 0, 0, 0, 0, 0, 0, 0⟩
  buf         := Vector.replicate 128 0
  bufLen      := 0
  totalLen    := 0
  lifecycle   := .uninit
  outstanding := none
  host        := []
  responses   := []
  draws       := 0

end Sys2Proof.Machine
end

