-- ==== Sys2Proof/Machine/Flags.lean ====
section
/-! DEFINITION. The STATUS word, the engine's only status bits (10_state.md R30 to R33), and the error codes
(60_exceptions.md R116). -/

namespace Sys2Proof.Machine

/-- The result of a command (60_exceptions.md R116). Values 4 to 15 are never returned and have no constructor. -/
inductive ErrCode where
  | ok
  /-- Raised by UPDATE and FINALIZE when `STATE ≠ ACTIVE` (R117). -/
  | invalidState
  /-- Raised by a command that does not decode (R118). -/
  | illegalCommand
  /-- Raised by UPDATE and DIGEST past `MAX_BYTES` (R119). -/
  | lengthOverflow
  deriving DecidableEq, Repr

/-- The ERR field's value (60_exceptions.md R116). -/
def ErrCode.code : ErrCode → BitVec 4
  | .ok => 0
  | .invalidState => 1
  | .illegalCommand => 2
  | .lengthOverflow => 3

/-- The 2-bit value of `STATE` (10_state.md R24). -/
def Lifecycle.bits : Lifecycle → BitVec 2
  | .uninit => 0
  | .active => 1
  | .finalized => 2

/-- What `STATUS[14:8]` shows: `BUF_LEN` when ACTIVE, else 0 (10_state.md R31). -/
def shownLen (l : Lifecycle) (n : BitVec 7) : BitVec 7 := if l = .active then n else 0

/-- The STATUS word: `[31:20]` 0, `[19:16]` ERR, `[15]` 0, `[14:8]` BUF_LEN, `[7:2]` 0, `[1:0]` STATE
(10_state.md R31 to R33). -/
def statusWord (l : Lifecycle) (n : BitVec 7) (e : ErrCode) : BitVec 32 :=
  0#12 ++ e.code ++ 0#1 ++ shownLen l n ++ 0#6 ++ l.bits

/-- `STATUS[1:0]` (10_state.md R31). -/
def Response.stateField (r : Response) : BitVec 2 := r.status.extractLsb' 0 2

/-- `STATUS[14:8]` (10_state.md R31). -/
def Response.bufLenField (r : Response) : BitVec 7 := r.status.extractLsb' 8 7

/-- `STATUS[19:16]` (10_state.md R32). -/
def Response.errField (r : Response) : BitVec 4 := r.status.extractLsb' 16 4

/-- The document's `finalized` boolean (10_state.md R25). -/
def State.finalized (s : State) : Bool := s.lifecycle = .finalized

end Sys2Proof.Machine
end

