-- ==== Sys2Proof/Machine/Operands.lean ====
section
/-! DEFINITION. The word and byte-sequence primitives (00_scope.md R16, R17; 20_memory.md R40 to R44, R46): shifts and
rotations, big-endian reading and writing, and a byte sequence cut into blocks. -/

namespace Sys2Proof.Machine

/-- `SHR(x, n)`: logical right shift, zeros enter at bit 63 (00_scope.md R16). -/
def shr (x : Word) (n : Nat) : Word := x >>> n

/-- `ROTR(x, n)` for `0 < n < 64` (00_scope.md R16). -/
def rotr (x : Word) (n : Nat) : Word := (x >>> n) ||| (x <<< (64 - n))

/-- `be64` of a byte sequence, the first byte the most significant (00_scope.md R17). Applied to 8 bytes. -/
def be64 (s : List Byte) : Word := s.foldl (fun acc b => (acc <<< 8) ||| b.setWidth 64) 0

/-- The `n` bytes of `v`, most significant first: byte `j` is `v[8(n-j)-1 : 8(n-j-1)]` (00_scope.md R17). -/
def toBigEndian {w : Nat} (n : Nat) (v : BitVec w) : List Byte :=
  (List.range n).map fun j => v.extractLsb' (8 * (n - 1 - j)) 8

/-- `to_be64(w)` (00_scope.md R17). -/
def toBe64 (v : Word) : List Byte := toBigEndian 8 v

/-- `to_be128(v)` (00_scope.md R17). -/
def toBe128 (v : BitVec 128) : List Byte := toBigEndian 16 v

/-- `s[8j .. 8j+7]` read as a word: word `j` of a block (20_memory.md R40). -/
def wordAt (s : List Byte) (j : Nat) : Word := be64 ((s.drop (8 * j)).take 8)

/-- The first `k` blocks of 128 bytes of a byte sequence, in order (20_memory.md R46). -/
def firstBlocks : Nat → List Byte → List (List Byte)
  | 0, _ => []
  | k + 1, m => m.take 128 :: firstBlocks k (m.drop 128)

/-- The complete blocks of a byte sequence: bytes `128k .. 128k+127` for each `k` (20_memory.md R46). -/
def fullBlocks (m : List Byte) : List (List Byte) := firstBlocks (m.length / 128) m

/-- The bytes after the last complete block. -/
def partialBlock (m : List Byte) : List Byte := m.drop (128 * (m.length / 128))

end Sys2Proof.Machine
end

