-- ==== Sys2Proof/Machine/Schedule.lean ====
section
/-! DEFINITION. The message schedule (42_schedule.md R99 to R104). -/

namespace Sys2Proof.Machine

/-- σ0 (42_schedule.md R99). -/
def smallSigma0 (x : Word) : Word := rotr x 1 ^^^ rotr x 8 ^^^ shr x 7

/-- σ1 (42_schedule.md R100). -/
def smallSigma1 (x : Word) : Word := rotr x 19 ^^^ rotr x 61 ^^^ shr x 6

/-- `W[0..15]`, the block's 16 big-endian words (42_schedule.md R101). -/
def scheduleHead (b : List Byte) : List Word := (List.range 16).map (wordAt b)

/-- One more schedule word: `W[t]` for `t` the number of words so far (42_schedule.md R102, R104). -/
def scheduleNext (w : List Word) : Word :=
  smallSigma1 (w.getD (w.length - 2) 0) + w.getD (w.length - 7) 0
    + smallSigma0 (w.getD (w.length - 15) 0) + w.getD (w.length - 16) 0

/-- The schedule extended by `n` words in increasing `t` (42_schedule.md R102). -/
def scheduleExtend : Nat → List Word → List Word
  | 0, w => w
  | n + 1, w => scheduleExtend n (w ++ [scheduleNext w])

/-- `Schedule(B)`: the 80 words `W[0..79]` (42_schedule.md R103). -/
def schedule (b : List Byte) : List Word := scheduleExtend 64 (scheduleHead b)

end Sys2Proof.Machine
end

