-- ==== Sys2Proof/Machine/Compress.lean ====
section
/-! DEFINITION. The constants, the round and the compression (40_streaming.md R76; 43_round.md R105 to R115). -/

namespace Sys2Proof.Machine

/-- The SHA-512 initial hash value IV[0..7] (40_streaming.md R76). -/
def iv : HashWords where
  h0 := 0x6a09e667f3bcc908
  h1 := 0xbb67ae8584caa73b
  h2 := 0x3c6ef372fe94f82b
  h3 := 0xa54ff53a5f1d36f1
  h4 := 0x510e527fade682d1
  h5 := 0x9b05688c2b3e6c1f
  h6 := 0x1f83d9abfb41bd6b
  h7 := 0x5be0cd19137e2179

/-- Rows 0 to 19 of the table of 43_round.md R109: row `t` gives `K[t]` and `K[t+40]`. -/
def constantRowsUpper : List (Word × Word) :=
  [(0x428a2f98d728ae22, 0xa2bfe8a14cf10364),
   (0x7137449123ef65cd, 0xa81a664bbc423001),
   (0xb5c0fbcfec4d3b2f, 0xc24b8b70d0f89791),
   (0xe9b5dba58189dbbc, 0xc76c51a30654be30),
   (0x3956c25bf348b538, 0xd192e819d6ef5218),
   (0x59f111f1b605d019, 0xd69906245565a910),
   (0x923f82a4af194f9b, 0xf40e35855771202a),
   (0xab1c5ed5da6d8118, 0x106aa07032bbd1b8),
   (0xd807aa98a3030242, 0x19a4c116b8d2d0c8),
   (0x12835b0145706fbe, 0x1e376c085141ab53),
   (0x243185be4ee4b28c, 0x2748774cdf8eeb99),
   (0x550c7dc3d5ffb4e2, 0x34b0bcb5e19b48a8),
   (0x72be5d74f27b896f, 0x391c0cb3c5c95a63),
   (0x80deb1fe3b1696b1, 0x4ed8aa4ae3418acb),
   (0x9bdc06a725c71235, 0x5b9cca4f7763e373),
   (0xc19bf174cf692694, 0x682e6ff3d6b2b8a3),
   (0xe49b69c19ef14ad2, 0x748f82ee5defb2fc),
   (0xefbe4786384f25e3, 0x78a5636f43172f60),
   (0x0fc19dc68b8cd5b5, 0x84c87814a1f0ab72),
   (0x240ca1cc77ac9c65, 0x8cc702081a6439ec)]

/-- Rows 20 to 39 of the table of 43_round.md R109: row `t` gives `K[t]` and `K[t+40]`. -/
def constantRowsLower : List (Word × Word) :=
  [(0x2de92c6f592b0275, 0x90befffa23631e28),
   (0x4a7484aa6ea6e483, 0xa4506cebde82bde9),
   (0x5cb0a9dcbd41fbd4, 0xbef9a3f7b2c67915),
   (0x76f988da831153b5, 0xc67178f2e372532b),
   (0x983e5152ee66dfab, 0xca273eceea26619c),
   (0xa831c66d2db43210, 0xd186b8c721c0c207),
   (0xb00327c898fb213f, 0xeada7dd6cde0eb1e),
   (0xbf597fc7beef0ee4, 0xf57d4f7fee6ed178),
   (0xc6e00bf33da88fc2, 0x06f067aa72176fba),
   (0xd5a79147930aa725, 0x0a637dc5a2c898a6),
   (0x06ca6351e003826f, 0x113f9804bef90dae),
   (0x142929670a0e6e70, 0x1b710b35131c471b),
   (0x27b70a8546d22ffc, 0x28db77f523047d84),
   (0x2e1b21385c26c926, 0x32caab7b40c72493),
   (0x4d2c6dfc5ac42aed, 0x3c9ebe0a15c9bebc),
   (0x53380d139d95b3df, 0x431d67c49c100d4c),
   (0x650a73548baf63de, 0x4cc5d4becb3e42b6),
   (0x766a0abb3c77b2a8, 0x597f299cfc657e2a),
   (0x81c2c92e47edaee6, 0x5fcb6fab3ad6faec),
   (0x92722c851482353b, 0x6c44198c4a475817)]

/-- The round constants `K[0..79]`: the left column of the table of 43_round.md R109, then its right column. -/
def roundConstants : List Word :=
  let rows := constantRowsUpper ++ constantRowsLower
  rows.map Prod.fst ++ rows.map Prod.snd

/-- Choose (43_round.md R105). -/
def ch (x y z : Word) : Word := (x &&& y) ^^^ (~~~x &&& z)

/-- Σ1 (43_round.md R108). -/
def bigSigma1 (x : Word) : Word := rotr x 14 ^^^ rotr x 18 ^^^ rotr x 41

/-- `T1` of a round with constant `k` and schedule word `w` (43_round.md R111). -/
def roundT1 (v : Working) (k w : Word) : Word := v.h + bigSigma1 v.e + ch v.e v.f v.g + k + w

/-- Majority (43_round.md R106). -/
def maj (x y z : Word) : Word := (x &&& y) ^^^ (x &&& z) ^^^ (y &&& z)

/-- Σ0 (43_round.md R107). -/
def bigSigma0 (x : Word) : Word := rotr x 28 ^^^ rotr x 34 ^^^ rotr x 39

/-- `T2` of a round (43_round.md R111). -/
def roundT2 (v : Working) : Word := bigSigma0 v.a + maj v.a v.b v.c

/-- The working variables before round 0 (43_round.md R110). -/
def loadWorking (h : HashWords) : Working := ⟨h.h0, h.h1, h.h2, h.h3, h.h4, h.h5, h.h6, h.h7⟩

/-- `Round(t)` with `k = K[t]` and `w = W[t]`, a simultaneous update (43_round.md R111). -/
def roundStep (v : Working) (k w : Word) : Working where
  a := roundT1 v k w + roundT2 v
  b := v.a
  c := v.b
  d := v.c
  e := v.d + roundT1 v k w
  f := v.e
  g := v.f
  h := v.g

/-- The 80 rounds in order: round `t` reads `K[t]` and `W[t]` (43_round.md R112). -/
def rounds (v : Working) (w : List Word) : Working :=
  (roundConstants.zip w).foldl (fun v kw => roundStep v kw.1 kw.2) v

/-- The working variables added back into the hash words (43_round.md R113). -/
def addWorking (h : HashWords) (v : Working) : HashWords :=
  ⟨h.h0 + v.a, h.h1 + v.b, h.h2 + v.c, h.h3 + v.d, h.h4 + v.e, h.h5 + v.f, h.h6 + v.g, h.h7 + v.h⟩

/-- `Compress(Hin, B)` (43_round.md R114). -/
def compress (h : HashWords) (b : List Byte) : HashWords :=
  addWorking h (rounds (loadWorking h) (schedule b))

/-- Blocks compressed in order, the first one first (40_streaming.md R85; 41_padding.md R94). -/
def compressAll (h : HashWords) (bs : List (List Byte)) : HashWords := bs.foldl compress h

end Sys2Proof.Machine
end

