-- ==== Sys2Proof/Machine/Padding.lean ====
section
/-! DEFINITION. Padding, the length field and the serialization of the hash words (41_padding.md R90 to R97). -/

namespace Sys2Proof.Machine

/-- `k = (111 - b) mod 128`, the number of zero bytes for `b` buffered bytes, `b ≤ 127` (41_padding.md R91). The 128 is
added before the subtraction because `Nat` has no negative numbers. -/
def zeroCount (b : Nat) : Nat := (111 + 128 - b) % 128

/-- The 16-byte length field for a message of `total` bytes (41_padding.md R92; 20_memory.md R41; log entry
14 for a count above `MAX_BYTES`). -/
def lengthField (total : BitVec 128) : List Byte := toBe128 (8 * total)

/-- `PadTail(T, TOTAL_LEN)` (41_padding.md R93). -/
def padTail (t : List Byte) (total : BitVec 128) : List Byte :=
  t ++ [0x80] ++ List.replicate (zeroCount t.length) 0 ++ lengthField total

/-- `Serialize(H)`: the 64 digest bytes (41_padding.md R97; 20_memory.md R42). -/
def serialize (h : HashWords) : List Byte := h.toList.flatMap toBe64

end Sys2Proof.Machine
end

