-- ==== Sys2Proof/Machine/Ops.lean ====
section
/-! DEFINITION. The named operations over the context registers, and the two ways a command ends: a response of success
and a raised error (00_scope.md R18, R19; 40_streaming.md R77, R81, R82, R85; 60_exceptions.md R122;
70_reset_and_hazards.md R134). -/

namespace Sys2Proof.Machine

/-- The STATUS word a response returned now would carry (10_state.md R31 to R33). -/
def State.statusNow (s : State) (e : ErrCode) : BitVec 32 := statusWord s.lifecycle s.bufLen e

/-- `respond(status, digest)`: the response is recorded and the command is complete, so the engine keeps no hold of its
payload (00_scope.md R19; 20_memory.md R48, R54). -/
def State.respond (s : State) (e : ErrCode) (d : Option (List Byte)) : State :=
  { s with responses := ⟨s.statusNow e, d⟩ :: s.responses, outstanding := none }

/-- `raise <Error>`, the engine's one exception entry: applied to the state as the command found it, it changes no
register, saves nothing, goes to no handler and returns STATUS with ERR and no digest (60_exceptions.md R122). The
engine has no return from an exception (R123), so there is no operation for one. -/
def State.raise (s : State) (e : ErrCode) : State := s.respond e none

/-- `BUF[0..BUF_LEN-1]`, the valid buffered bytes, oldest first (10_state.md R21). -/
def State.valid (s : State) : List Byte := s.buf.toList.take s.bufLen.toNat

/-- The register writes of CREATE; BUF is not written (40_streaming.md R77). -/
def State.restart (s : State) : State :=
  { s with hash := iv, bufLen := 0, totalLen := 0, lifecycle := .active }

/-- `BUF[BUF_LEN] <- b` (40_streaming.md R81). -/
def State.store (s : State) (b : Byte) : Vector Byte 128 := s.buf.set s.bufLen.toNat b s.bufLen.isLt

/-- `Absorb(b)`: one message byte; a full buffer is compressed and emptied at once (40_streaming.md R81). -/
def State.absorb (s : State) (b : Byte) : State :=
  if s.bufLen.toNat + 1 = 128 then
    { s with buf := s.store b, hash := compress s.hash (s.store b).toList, bufLen := 0 }
  else
    { s with buf := s.store b, bufLen := BitVec.ofNat 7 (s.bufLen.toNat + 1) }

/-- The payload absorbed in increasing index order (40_streaming.md R78; 20_memory.md R47). -/
def State.absorbAll (s : State) (p : List Byte) : State := p.foldl State.absorb s

/-- `TOTAL_LEN <- TOTAL_LEN + n` (40_streaming.md R82). Exact where the sum is at most `MAX_BYTES`, as wherever it is
used (log entry 14). -/
def State.addTotal (s : State) (n : Nat) : State :=
  { s with totalLen := BitVec.ofNat 128 (s.totalLen.toNat + n) }

/-- A buffer of 128 FREE VALUES. -/
def freeBuffer (draw : Nat) : Vector Byte 128 :=
  ⟨((List.range 128).map (Config.freeByte draw)).toArray, by simp⟩

/-- A buffer whose first `n` bytes are those of `b` and whose other bytes are FREE VALUES. -/
def freeTail (b : Vector Byte 128) (n draw : Nat) : Vector Byte 128 :=
  ⟨(b.toList.take n ++ ((List.range 128).drop n).map (Config.freeByte draw)).toArray, by simp; omega⟩

/-- The stale bytes `BUF[BUF_LEN..127]` take FREE VALUES: the spec leaves them unspecified, and R81 lets an engine
compress blocks straight from the payload (10_state.md R21; 93_implementation_defined.md U3). DESIGN CHOICE, safe,
log entry 5. Instances with equal `draws` draw equal values: DESIGN CHOICE, unsafe, log entry 15. -/
def State.freeStale (s : State) : State :=
  { s with buf := freeTail s.buf s.bufLen.toNat s.draws, draws := s.draws + 1 }

/-- BUF, BUF_LEN and TOTAL_LEN take FREE VALUES (10_state.md R27; 93_implementation_defined.md U2, U4). DESIGN CHOICE,
safe, log entries 4 and 6. Instances with equal `draws` draw equal values: DESIGN CHOICE, unsafe, log entry 15. -/
def State.forgetMessage (s : State) : State :=
  { s with
    buf := freeBuffer s.draws
    bufLen := Config.freeCount s.draws
    totalLen := Config.freeTotal s.draws
    draws := s.draws + 1 }

/-- A payload absorbed and counted. An empty one writes nothing (40_streaming.md R78, R83). -/
def State.takeIn (s : State) (p : List Byte) : State :=
  if p = [] then s else ((s.absorbAll p).addTotal p.length).freeStale

/-- The hash words after the padded tail's one or two blocks (40_streaming.md R85; 41_padding.md R93, R94). -/
def State.closingHash (s : State) : HashWords :=
  compressAll s.hash (fullBlocks (padTail s.valid s.totalLen))

/-- The register writes of FINALIZE (40_streaming.md R85; 10_state.md R27). -/
def State.close (s : State) : State :=
  State.forgetMessage { s with hash := s.closingHash, lifecycle := .finalized }

/-- The response of a successful FINALIZE or DIGEST, with the digest (30_encoding.md R68; 41_padding.md R97). -/
def State.respondDigest (s : State) : State := s.respond .ok (some (serialize s.hash))

/-- Reset during a run, which is also what loss of power does: STATE is UNINIT, an outstanding command is abandoned
without a response, and the other registers take FREE VALUES (70_reset_and_hazards.md R134; 60_exceptions.md R133).
DESIGN CHOICE, safe, log entry 4. The values are named by the instance's own `draws` alone, so that two instances with equal
counts draw equal values, which the spec does not relate (00_scope.md R6): DESIGN CHOICE, unsafe, log entry 15. -/
def State.platformReset (s : State) : State :=
  State.forgetMessage
    { s with
      hash :=
        ⟨Config.freeWord s.draws 0, Config.freeWord s.draws 1, Config.freeWord s.draws 2, Config.freeWord s.draws 3,
         Config.freeWord s.draws 4, Config.freeWord s.draws 5, Config.freeWord s.draws 6, Config.freeWord s.draws 7⟩
      lifecycle := .uninit
      outstanding := none }

end Sys2Proof.Machine
end

