-- ==== Sys2Proof/Machine/Streaming.lean ====
section
/-! DEFINITION. The four commands, one meaning each (40_streaming.md R77, R78, R85, R87), with the errors in the order
of 60_exceptions.md R121. ILLEGAL_COMMAND comes before any of them, in Machine/Engine.lean. -/

namespace Sys2Proof.Machine

/-- CREATE (40_streaming.md R77): legal in every STATE. -/
def execCreate (s : State) : Host.Outcome State Fault Refusal :=
  .next (s.restart.respond .ok none)

/-- UPDATE (40_streaming.md R78, R79, R80, R83). -/
def execUpdate (p : List Byte) (s : State) : Host.Outcome State Fault Refusal :=
  if s.lifecycle ≠ .active then .next (s.raise .invalidState)
  else if Config.maxBytes < s.totalLen.toNat + p.length then .next (s.raise .lengthOverflow)
  else .next ((s.takeIn p).respond .ok none)

/-- FINALIZE (40_streaming.md R85, R86). -/
def execFinalize (s : State) : Host.Outcome State Fault Refusal :=
  if s.lifecycle ≠ .active then .next (s.raise .invalidState)
  else .next s.close.respondDigest

/-- DIGEST (40_streaming.md R87): CREATE, UPDATE and FINALIZE in one command, legal in every STATE. -/
def execDigest (p : List Byte) (s : State) : Host.Outcome State Fault Refusal :=
  if Config.maxBytes < p.length then .next (s.raise .lengthOverflow)
  else .next ((s.restart.absorbAll p).addTotal p.length).close.respondDigest

end Sys2Proof.Machine
end

