-- ==== Sys2Proof/Machine/Dispatch.lean ====
section
/-! DEFINITION. `exec`: one arm per command, each one call of its meaning (40_streaming.md R74). -/

namespace Sys2Proof.Machine

def exec (i : Instr) (s : State) : Host.Outcome State Fault Refusal :=
  match i with
  | .create => Sys2Proof.Machine.execCreate s
  | .update p => Sys2Proof.Machine.execUpdate p s
  | .finalize => Sys2Proof.Machine.execFinalize s
  | .digest p => Sys2Proof.Machine.execDigest p s

end Sys2Proof.Machine
end

