-- ==== Sys2Proof/Machine/Engine.lean ====
section
/-! DEFINITION. Performing the outstanding command (40_streaming.md R74) and the host's turn (70_reset_and_hazards.md
R134, R139): what Machine/Step.lean calls. -/

namespace Sys2Proof.Machine

/-- `Step(s, cmd, payload)` (40_streaming.md R74): decode, then raise ILLEGAL_COMMAND or perform the command. -/
def perform (c : Command) (s : State) : Host.Outcome State Fault Refusal :=
  match decode c with
  | .legal i => exec i s
  | .illegal _ => .next (s.raise .illegalCommand)

/-- The engine's turn: it performs the outstanding command; with none it is idle and keeps its state
(60_exceptions.md R133; log entry 7). -/
def engineTurn (s : State) : Host.Outcome State Fault Refusal :=
  match s.outstanding with
  | some c => perform c s
  | none => .next s

/-- The host issues a command, if none is outstanding; while one is, the host waits and the engine goes on with that one
(70_reset_and_hazards.md R139; log entry 1). -/
def issueTurn (c : Command) (rest : List HostMove) (s : State) : Host.Outcome State Fault Refusal :=
  match s.outstanding with
  | some _ => engineTurn s
  | none => .next { s with outstanding := some c, host := rest }

/-- One step of engine and host: a reset comes before anything else (R134), else the engine has its turn, else the
host's next command is accepted (70_reset_and_hazards.md section 3; log entry 1). -/
def hostTurn (s : State) : Host.Outcome State Fault Refusal :=
  match s.host with
  | [] => engineTurn s
  | .wait :: rest => engineTurn { s with host := rest }
  | .reset :: rest => .next (State.platformReset { s with host := rest })
  | .issue c :: rest => issueTurn c rest s

/-- The host's moves with a wait before a reset that would come next, so that the next step is the engine's. -/
def holdReset (moves : List HostMove) : List HostMove :=
  match moves with
  | .reset :: _ => .wait :: moves
  | _ => moves

end Sys2Proof.Machine
end

