-- ==== Sys2Proof/Machine/Step.lean ====
section
/-! DEFINITION. One step of the machine, and the state in which a given command word is the next to be performed. -/

namespace Sys2Proof.Machine

/-- One step of engine and host (Machine/Engine.lean). -/
def step (s : State) : Host.Outcome State Fault Refusal := hostTurn s

/-- `s` with the command of the table's bits `w` (empty payload) outstanding, so that the next step performs it. It
stands for the host's issuing that command (log entry 1). -/
def State.withFetchWord (s : State) (nbits w : Nat) : State :=
  { s with outstanding := some (tableCommand nbits w), host := holdReset s.host }

end Sys2Proof.Machine
end

