-- ==== Sys2Proof/Machine/Assembler.lean ====
section
/-! DEFINITION. The spec's assembler syntax for command programs (30_encoding.md R70 to R73), from text to commands, and
the hex rendering of a digest (R69). A convention of the host: no meaning of a command reads it. -/

namespace Sys2Proof.Machine

/-- A payload literal (30_encoding.md R71). -/
inductive PayloadExpr where
  /-- `x"<hex>"`, the bytes already read from the digits. -/
  | hex (bytes : List Byte)
  /-- `"<text>"`. -/
  | text (chars : List Char)
  /-- `rep(<b>, <n>)`. -/
  | rep (b : Byte) (n : Nat)
  /-- `seq(<n>)`. -/
  | seq (n : Nat)
  /-- `<p> ++ <q>`. -/
  | cat (p q : PayloadExpr)
  deriving DecidableEq, Repr

/-- The bytes a payload literal denotes (30_encoding.md R71). -/
def PayloadExpr.bytes : PayloadExpr → List Byte
  | .hex bs => bs
  | .text cs => cs.map fun c => BitVec.ofNat 8 c.toNat
  | .rep b n => List.replicate n b
  | .seq n => (List.range n).map fun i => BitVec.ofNat 8 (i % 256)
  | .cat p q => p.bytes ++ q.bytes

/-- One line of a command program (30_encoding.md R70, R72, R73). -/
inductive Line where
  | create
  | update (p : PayloadExpr)
  | finalize
  | digest (p : PayloadExpr)
  /-- `UPDATEN <payload>, <count>` (R72). -/
  | updateN (p : PayloadExpr) (count : Nat)
  /-- `.cmd <word>, <payload>` (R73). -/
  | cmd (word : BitVec 32) (p : PayloadExpr)
  deriving DecidableEq, Repr

/-- The commands a line stands for, in order (30_encoding.md R70, R72, R73). -/
def Line.commands : Line → List Command
  | .create => [encode .create]
  | .update p => [encode (.update p.bytes)]
  | .finalize => [encode .finalize]
  | .digest p => [encode (.digest p.bytes)]
  | .updateN p count => List.replicate count (encode (.update p.bytes))
  | .cmd word p => [⟨word, p.bytes⟩]

/-- The commands of a program, line by line. -/
def assemble (prog : List Line) : List Command := prog.flatMap Line.commands

/-- The double quote. -/
def quoteChar : Char := Char.ofNat 34

/-- The value of a hex digit, either case. -/
def hexDigit? (c : Char) : Option Nat :=
  if '0' ≤ c ∧ c ≤ '9' then some (c.toNat - 48)
  else if 'a' ≤ c ∧ c ≤ 'f' then some (c.toNat - 87)
  else if 'A' ≤ c ∧ c ≤ 'F' then some (c.toNat - 55)
  else none

/-- The value of digits in the given base, most significant first; none if there are none or one is out of range. -/
def digits? (base : Nat) (cs : List Char) : Option Nat :=
  if cs = [] then none
  else cs.foldl (fun acc c => do
    let a ← acc
    let d ← hexDigit? c
    if d < base then some (a * base + d) else none) (some 0)

/-- A number, decimal or after `0x` hexadecimal (00_scope.md R14; log entry 11). -/
def number? : List Char → Option Nat
  | '0' :: 'x' :: ds => digits? 16 ds
  | ds => digits? 10 ds

/-- Pairs of hex digits as bytes, first pair first; none for an odd count (30_encoding.md R71). -/
def hexPairs? : List Char → Option (List Byte)
  | [] => some []
  | [_] => none
  | a :: b :: rest => do
    let x ← hexDigit? a
    let y ← hexDigit? b
    let more ← hexPairs? rest
    some (BitVec.ofNat 8 (16 * x + y) :: more)

/-- The text without leading spaces. -/
def skipSpaces (cs : List Char) : List Char := cs.dropWhile (· = ' ')

/-- The characters up to the next one equal to `stop`, and what follows it; none if there is no such character. -/
def upTo? (stop : Char) : List Char → Option (List Char × List Char)
  | [] => none
  | c :: cs => if c = stop then some ([], cs) else (upTo? stop cs).map fun r => (c :: r.1, r.2)

/-- The characters with the spaces at both ends taken off. -/
def trim (cs : List Char) : List Char := (skipSpaces (skipSpaces cs).reverse).reverse

/-- A byte's number. -/
def byte? (cs : List Char) : Option Byte := do
  let n ← number? cs
  if n < 256 then some (BitVec.ofNat 8 n) else none

/-- One payload literal without `++`, and the text after it (30_encoding.md R71). -/
def atom? : List Char → Option (PayloadExpr × List Char)
  | 'r' :: 'e' :: 'p' :: '(' :: cs => do
    let (b, cs) ← upTo? ',' cs
    let (n, cs) ← upTo? ')' cs
    let b ← byte? (trim b)
    let n ← number? (trim n)
    some (.rep b n, cs)
  | 's' :: 'e' :: 'q' :: '(' :: cs => do
    let (n, cs) ← upTo? ')' cs
    let n ← number? (trim n)
    some (.seq n, cs)
  | 'x' :: q :: cs =>
    if q = quoteChar then do
      let (ds, cs) ← upTo? quoteChar cs
      let bs ← hexPairs? ds
      some (.hex bs, cs)
    else none
  | q :: cs =>
    if q = quoteChar then do
      let (t, cs) ← upTo? quoteChar cs
      if t.all (·.toNat < 128) then some (.text t, cs) else none
    else none
  | [] => none

/-- A payload: literals joined by `++`, and the text after them. `fuel` bounds the number of literals. -/
def payload? : Nat → List Char → Option (PayloadExpr × List Char)
  | 0, _ => none
  | fuel + 1, cs => do
    let (p, cs) ← atom? (skipSpaces cs)
    match skipSpaces cs with
    | '+' :: '+' :: cs => do
      let (q, cs) ← payload? fuel cs
      some (.cat p q, cs)
    | cs => some (p, cs)

/-- A payload that is all of the text. -/
def wholePayload? (cs : List Char) : Option PayloadExpr :=
  match payload? cs.length cs with
  | some (p, rest) => if skipSpaces rest = [] then some p else none
  | none => none

/-- A payload that may be left out, and is then empty (30_encoding.md R70). -/
def operand? (cs : List Char) : Option PayloadExpr :=
  if skipSpaces cs = [] then some (.hex []) else wholePayload? cs

/-- A line without its comment: `;` outside a text literal begins one (30_encoding.md R70; log entry 11). -/
def dropComment : Bool → List Char → List Char
  | _, [] => []
  | inText, c :: cs =>
    if c = ';' ∧ inText = false then []
    else c :: dropComment (if c = quoteChar then !inText else inText) cs

/-- A payload and, after a comma, a count (30_encoding.md R72). -/
def updateN? (cs : List Char) : Option Line :=
  match payload? cs.length cs with
  | some (p, rest) =>
    match skipSpaces rest with
    | ',' :: n => (number? (trim n)).map (Line.updateN p)
    | _ => none
  | none => none

/-- A command word and, after a comma, a payload (30_encoding.md R73). -/
def rawCommand? (cs : List Char) : Option Line := do
  let (w, cs) ← upTo? ',' cs
  let w ← number? (trim w)
  let p ← wholePayload? cs
  if w < 2 ^ 32 then some (.cmd (BitVec.ofNat 32 w) p) else none

/-- The first word of a line and the rest. -/
def firstWord (cs : List Char) : List Char × List Char := (cs.takeWhile (· ≠ ' '), cs.dropWhile (· ≠ ' '))

/-- A line that is not blank (30_encoding.md R70, R72, R73). -/
def statement? (cs : List Char) : Option Line :=
  let w := (firstWord cs).1
  let rest := (firstWord cs).2
  if w = ['C', 'R', 'E', 'A', 'T', 'E'] then (if skipSpaces rest = [] then some .create else none)
  else if w = ['U', 'P', 'D', 'A', 'T', 'E'] then (operand? rest).map Line.update
  else if w = ['F', 'I', 'N', 'A', 'L', 'I', 'Z', 'E'] then (if skipSpaces rest = [] then some .finalize else none)
  else if w = ['D', 'I', 'G', 'E', 'S', 'T'] then (operand? rest).map Line.digest
  else if w = ['U', 'P', 'D', 'A', 'T', 'E', 'N'] then updateN? rest
  else if w = ['.', 'c', 'm', 'd'] then rawCommand? rest
  else none

/-- The statement of a text line: none for a line that does not parse, an empty list for a blank line. -/
def line? (cs : List Char) : Option (List Line) :=
  let body := trim (dropComment false cs)
  if body = [] then some [] else (statement? body).map fun l => [l]

/-- A program's lines (30_encoding.md R70: one command per line); none if one does not parse. -/
def program? : List (List Char) → Option (List Line)
  | [] => some []
  | l :: ls => do
    let a ← line? l
    let b ← program? ls
    some (a ++ b)

/-- One lowercase hex digit (30_encoding.md R69). -/
def hexChar (n : Nat) : Char := if n < 10 then Char.ofNat (48 + n) else Char.ofNat (87 + n)

/-- A byte sequence as lowercase hex, byte 0 first, high nibble first (30_encoding.md R69). -/
def renderHex (bs : List Byte) : List Char :=
  bs.flatMap fun b => [hexChar (b.toNat / 16), hexChar (b.toNat % 16)]

end Sys2Proof.Machine
end

