-- ==== Sys2Proof/Machine/Platform.lean ====
section
/-! DEFINITION. A platform with any number of engine instances (60_exceptions.md R131; 20_memory.md R53; log entry 12). -/

namespace Sys2Proof.Machine

/-- The instances of a platform, by position. Each has a complete state of its own. Their
free values are told apart by their counts of draws alone (log entry 15). -/
abbrev Platform := List State

/-- Instance `k` takes one step; a position with no instance changes nothing. -/
def Platform.stepAt (p : Platform) (k : Nat) : Host.Outcome Platform Fault Refusal :=
  match p[k]? with
  | none => .next p
  | some s =>
    match step s with
    | .next t => .next (p.set k t)
    | .fault r => .fault r
    | .refused r => .refused r

end Sys2Proof.Machine
end

