-- ==== Sys2Proof/Machine/Reference.lean ====
section
/-! DEFINITION. The one-shot statement of SHA-512 over a whole message (41_padding.md R95, R96), which the streaming
commands compute piece by piece. No meaning calls it; statements compare the commands with it. -/

namespace Sys2Proof.Machine

/-- `k` for a message of `L` bytes: the least count with `(L + 1 + k) mod 128 = 112` (41_padding.md R91, R96). -/
def messageZeros (m : List Byte) : Nat := zeroCount (m.length % 128)

/-- The padded message `M'` (41_padding.md R96). -/
def paddedMessage (m : List Byte) : List Byte :=
  m ++ [0x80] ++ List.replicate (messageZeros m) 0 ++ toBe128 (BitVec.ofNat 128 (8 * m.length))

/-- The digest of a whole message: the IV compressed with the blocks of `M'` in order, serialized (41_padding.md R96). -/
def sha512 (m : List Byte) : List Byte := serialize (compressAll iv (fullBlocks (paddedMessage m)))

/-- Compressions of a message of `n` bytes, UPDATE and FINALIZE together (41_padding.md R95). -/
def compressions (n : Nat) : Nat := n / 128 + if n % 128 ≤ 111 then 1 else 2

/-- The first 80 primes, the ones the constants are derived from (40_streaming.md R76; 43_round.md R109). -/
def firstPrimes : List Nat :=
  [2, 3, 5, 7, 11, 13, 17, 19, 23, 29, 31, 37, 41, 43, 47, 53, 59, 61, 67, 71] ++
  [73, 79, 83, 89, 97, 101, 103, 107, 109, 113, 127, 131, 137, 139, 149, 151, 157, 163, 167, 173] ++
  [179, 181, 191, 193, 197, 199, 211, 223, 227, 229, 233, 239, 241, 251, 257, 263, 269, 271, 277, 281] ++
  [283, 293, 307, 311, 313, 317, 331, 337, 347, 349, 353, 359, 367, 373, 379, 383, 389, 397, 401, 409]

end Sys2Proof.Machine
end

