-- ==== Sys2Proof/Safety.lean ====
section
/-! DEFINITION. What a good state and a safe run are, in the terms the statements use: the invariant of 10_state.md R26,
the registers an error keeps (60_exceptions.md R122), what a host can tell apart (70_reset_and_hazards.md R135), and the
form of a response. -/

namespace Sys2Proof.Machine

/-- The message `m` has been absorbed since the last CREATE (10_state.md R26 (b) and (c)). -/
structure State.Absorbed (s : State) (m : List Byte) : Prop where
  active  : s.lifecycle = .active
  bound   : m.length ≤ Config.maxBytes
  total   : s.totalLen.toNat = m.length
  count   : s.bufLen.toNat = m.length % 128
  pending : s.valid = partialBlock m
  hash    : s.hash = compressAll iv (fullBlocks m)

/-- The digest of the newest response that carries one. -/
def lastDigest (rs : List Response) : Option (List Byte) := rs.findSome? Response.digest

/-- The form every response has: reserved bits 0, STATE one of 0 to 2, ERR one of 0 to 3, BUF_LEN shown only when ACTIVE,
and a digest of 64 bytes only with STATE FINALIZED and ERR 0 (10_state.md R31, R33; 30_encoding.md R67, R68; 60_exceptions.md R116). -/
structure Response.Sound (r : Response) : Prop where
  reserved : r.status &&& 0xFFF080FC = 0
  state    : r.stateField ≠ 3
  err      : r.errField ≤ 3
  shown    : r.stateField ≠ 1 → r.bufLenField = 0
  digest   : ∀ d, r.digest = some d → d.length = 64 ∧ r.errField = 0 ∧ r.stateField = 2

/-- The invariant of 10_state.md R26: an ACTIVE engine holds the message absorbed since the last CREATE, a FINALIZED one
holds the words whose serialization was the last digest returned, and every response has its form. -/
structure State.Inv (s : State) : Prop where
  active    : s.lifecycle = .active → ∃ m, s.Absorbed m
  finalized : s.lifecycle = .finalized → lastDigest s.responses = some (serialize s.hash)
  responses : ∀ r ∈ s.responses, r.Sound

/-- Every register of 10_state.md, and the count of free values, is the same in `s` and `t` (60_exceptions.md R122). -/
structure SameRegisters (s t : State) : Prop where
  hash      : t.hash = s.hash
  buf       : t.buf = s.buf
  bufLen    : t.bufLen = s.bufLen
  totalLen  : t.totalLen = s.totalLen
  lifecycle : t.lifecycle = s.lifecycle
  draws     : t.draws = s.draws

/-- `s` and `t` agree on everything some rule reads: the host's side, STATE, and, when ACTIVE, H, the valid buffered
bytes, BUF_LEN and TOTAL_LEN (70_reset_and_hazards.md R135; 10_state.md R21, R27). -/
structure ObsEq (s t : State) : Prop where
  lifecycle   : s.lifecycle = t.lifecycle
  outstanding : s.outstanding = t.outstanding
  host        : s.host = t.host
  responses   : s.responses = t.responses
  context     : s.lifecycle = .active →
    s.hash = t.hash ∧ s.bufLen = t.bufLen ∧ s.valid = t.valid ∧ s.totalLen = t.totalLen

/-- A safe run so far: no response carried an error (60_exceptions.md R123). -/
def State.noErrors (s : State) : Bool := s.responses.all fun r => r.errField == 0

/-- The host's next move is not a reset, so an outstanding command is performed by the next step. -/
def State.undisturbed (s : State) : Prop := ∀ rest, s.host ≠ .reset :: rest

/-- The host's moves left after a step in which the engine performs a command: a wait is used up. -/
def State.afterTurn (s : State) : State :=
  match s.host with
  | .wait :: rest => { s with host := rest }
  | _ => s

/-- Commands performed one after another, in order (20_memory.md R52). -/
def runAll : List Instr → State → Host.Outcome State Fault Refusal
  | [], s => .next s
  | i :: is, s =>
    match exec i s with
    | .next t => runAll is t
    | .fault r => .fault r
    | .refused r => .refused r

/-- `n` steps of the machine, stopping where a step does not answer a next state. -/
def steps : Nat → State → Host.Outcome State Fault Refusal
  | 0, s => .next s
  | n + 1, s =>
    match step s with
    | .next t => steps n t
    | .fault r => .fault r
    | .refused r => .refused r

/-- The command word and payload are none of the four commands: reserved bits set, a reserved operation code, or a
payload on CREATE or FINALIZE (60_exceptions.md R118). -/
abbrev Malformed (c : Command) : Prop :=
  c.word.extractLsb' 4 28 ≠ 0 ∨ c.word.extractLsb' 0 4 = 0 ∨ 4 < (c.word.extractLsb' 0 4).toNat ∨
    ((c.word.extractLsb' 0 4 = 1 ∨ c.word.extractLsb' 0 4 = 3) ∧ c.payload ≠ [])

end Sys2Proof.Machine
end

