-- ==== Sys2Proof/Certificates/Slice0/Obligations.lean ====
section
/-! DEFINITION. The statements for the provers, in the order of the spec's files: encoding, the four commands, errors and
responses, the lifecycle, reset and the host's protocol, the functions of SHA-512, instances, and the host's notation. -/

open Sys2Proof Sys2Proof.Machine

/-! ### Encoding (30_encoding.md) -/

/-- Words written out from 30_encoding.md section 2 decode to the commands they stand for, and words next to them are
refused by name. -/
def Obligations.CommandWordsDecode : Prop :=
  decode ⟨0b00000000000000000000000000000001, []⟩ = .legal .create ∧
  decode ⟨0b00000000000000000000000000000010, [0x61, 0x62]⟩ = .legal (.update [0x61, 0x62]) ∧
  decode ⟨0b00000000000000000000000000000011, []⟩ = .legal .finalize ∧
  decode ⟨0b00000000000000000000000000000100, []⟩ = .legal (.digest []) ∧
  decode ⟨0b00000000000000000000000000000000, []⟩ = .illegal .reservedOpcode ∧
  decode ⟨0b00000000000000000000000000000101, []⟩ = .illegal .reservedOpcode ∧
  decode ⟨0b00000000000000000000000000010010, []⟩ = .illegal .reservedBits ∧
  decode ⟨0b00000000000000000000000000000011, [0x00]⟩ = .illegal .payloadNotEmpty

/-- R63: the four command words are those of CREATE, UPDATE, FINALIZE and DIGEST, and every other 32-bit value is
illegal whatever its payload; a CREATE or FINALIZE with a payload is illegal too (30_encoding.md section 1). -/
def Obligations.LegalCommandWordsExactly : Prop :=
  decode ⟨0x00000001, []⟩ = .legal .create ∧ (∀ p, decode ⟨0x00000002, p⟩ = .legal (.update p)) ∧
  decode ⟨0x00000003, []⟩ = .legal .finalize ∧ (∀ p, decode ⟨0x00000004, p⟩ = .legal (.digest p)) ∧
  (∀ p, p ≠ [] → decode ⟨0x00000001, p⟩ = .illegal .payloadNotEmpty ∧
    decode ⟨0x00000003, p⟩ = .illegal .payloadNotEmpty) ∧
  ∀ (w : BitVec 32) (p : List Byte), w ≠ 0x00000001 → w ≠ 0x00000002 → w ≠ 0x00000003 → w ≠ 0x00000004 →
    ∃ why, decode ⟨w, p⟩ = .illegal why

/-- Decoding and encoding agree in both directions, with every payload: a command decodes to `i` exactly when it is the
encoding of `i`, so no bit of a command word is dropped. -/
def Obligations.DecodeEncodeAgree : Prop :=
  ∀ (c : Command) (i : Instr), decode c = .legal i ↔ c = encode i

/-! ### CREATE (40_streaming.md section 2) -/

/-- CREATE completes in every state: H holds the IV, BUF_LEN and TOTAL_LEN are 0, STATE is ACTIVE, BUF is not written, and
the response is STATUS `0x00000001` without a digest. -/
def Obligations.CreateStartsMessage : Prop :=
  ∀ s : State, ∃ t, exec .create s = .next t ∧
    t.hash = iv ∧ t.bufLen = 0 ∧ t.totalLen = 0 ∧ t.lifecycle = .active ∧
    t.buf = s.buf ∧ t.draws = s.draws ∧ t.host = s.host ∧ t.outstanding = none ∧
    t.responses = ⟨0x00000001, none⟩ :: s.responses

/-- Two CREATEs in a row leave every register as one does. -/
def Obligations.CreateTwiceAsOnce : Prop :=
  ∀ s : State, ∃ t u, exec .create s = .next t ∧ exec .create t = .next u ∧ SameRegisters t u

/-! ### UPDATE (40_streaming.md section 3) -/

/-- UPDATE completes in ACTIVE while the byte count stays at most `2^125 - 1`: the blocks that the valid buffered bytes
and the payload complete are compressed into H in order, what is left stays buffered, TOTAL_LEN grows by the payload's
length, STATE stays ACTIVE, and STATUS shows the new BUF_LEN with ERR 0 and no digest. -/
def Obligations.UpdateAbsorbsPayload : Prop :=
  ∀ (s : State) (p : List Byte),
    s.lifecycle = .active → s.totalLen.toNat + p.length ≤ 2 ^ 125 - 1 →
    ∃ t, exec (.update p) s = .next t ∧
      t.hash = compressAll s.hash (fullBlocks (s.valid ++ p)) ∧
      t.valid = partialBlock (s.valid ++ p) ∧
      t.bufLen.toNat = (s.bufLen.toNat + p.length) % 128 ∧
      t.totalLen.toNat = s.totalLen.toNat + p.length ∧
      t.lifecycle = .active ∧ t.host = s.host ∧ t.outstanding = none ∧
      t.responses = ⟨statusWord .active t.bufLen .ok, none⟩ :: s.responses

/-- An UPDATE that completes no block changes no hash word and no valid buffer byte: it only appends its payload. -/
def Obligations.UpdateWithoutFullBlock : Prop :=
  ∀ (s : State) (p : List Byte),
    s.lifecycle = .active → s.totalLen.toNat + p.length ≤ 2 ^ 125 - 1 → s.bufLen.toNat + p.length < 128 →
    ∃ t, exec (.update p) s = .next t ∧ t.hash = s.hash ∧ t.bufLen.toNat = s.bufLen.toNat + p.length ∧
      (∀ i, i < s.bufLen.toNat → t.buf.toList[i]? = s.buf.toList[i]?) ∧
      (∀ j, j < p.length → t.buf.toList[s.bufLen.toNat + j]? = p[j]?)

/-- R79: UPDATE outside ACTIVE changes nothing and returns `0x00010002` in FINALIZED and `0x00010000` in UNINIT. -/
def Obligations.UpdateOutsideActiveRaises : Prop :=
  ∀ (s : State) (p : List Byte), s.lifecycle ≠ .active →
    ∃ t, exec (.update p) s = .next t ∧ SameRegisters s t ∧ t.host = s.host ∧ t.outstanding = none ∧
      t.responses =
        ⟨if s.lifecycle = .finalized then 0x00010002 else 0x00010000, none⟩ :: s.responses

/-- R80: UPDATE past `2^125 - 1` bytes, compared as unbounded integers, raises LENGTH_OVERFLOW and changes nothing. -/
def Obligations.UpdateOverflowRaises : Prop :=
  ∀ (s : State) (p : List Byte), s.lifecycle = .active → 2 ^ 125 - 1 < s.totalLen.toNat + p.length →
    ∃ t r, exec (.update p) s = .next t ∧ SameRegisters s t ∧ t.host = s.host ∧ t.outstanding = none ∧
      t.responses = r :: s.responses ∧ r.errField = 3 ∧ r.digest = none

/-- R82: whatever the state, an UPDATE that answers ERR 0 has added its payload's length to TOTAL_LEN, without a wrap. -/
def Obligations.SuccessfulUpdateCounts : Prop :=
  ∀ (s t : State) (p : List Byte) (r : Response),
    exec (.update p) s = .next t → t.responses = r :: s.responses → r.errField = 0 →
    t.totalLen.toNat = s.totalLen.toNat + p.length

/-- An UPDATE with an empty payload in ACTIVE writes no register and returns STATUS with ERR 0 (40_streaming.md R83, marked
by the spec as derived). The bound is that of the invariant (10_state.md R23). -/
def Obligations.EmptyUpdateWritesNothing : Prop :=
  ∀ s : State, s.lifecycle = .active → s.totalLen.toNat ≤ 2 ^ 125 - 1 →
    ∃ t r, exec (.update []) s = .next t ∧ SameRegisters s t ∧ t.host = s.host ∧
      t.responses = r :: s.responses ∧ r.errField = 0 ∧ r.stateField = 1 ∧ r.bufLenField = s.bufLen ∧
      r.digest = none

/-- Chunking invariance (40_streaming.md R84, marked by the spec as derived): UPDATEs of `p1, ..., pk` leave the H,
valid bytes, BUF_LEN and TOTAL_LEN that one UPDATE of their concatenation leaves, and a FINALIZE after either returns
the same response. -/
def Obligations.ChunkingInvariance : Prop :=
  ∀ (s : State) (ps : List (List Byte)),
    s.lifecycle = .active → s.totalLen.toNat + ps.flatten.length ≤ 2 ^ 125 - 1 →
    ∃ t u t' u' r, runAll (ps.map .update) s = .next t ∧ exec (.update ps.flatten) s = .next u ∧
      t.hash = u.hash ∧ t.valid = u.valid ∧ t.bufLen = u.bufLen ∧ t.totalLen = u.totalLen ∧
      t.lifecycle = .active ∧ u.lifecycle = .active ∧
      exec .finalize t = .next t' ∧ exec .finalize u = .next u' ∧
      t'.responses = r :: t.responses ∧ u'.responses = r :: u.responses

/-! ### FINALIZE (40_streaming.md section 4) -/

/-- FINALIZE completes in ACTIVE: the valid bytes, `0x80`, the least number of zero bytes that reaches 112 modulo 128 and
the 128-bit big-endian count of bits are compressed into H, the response is STATUS `0x00000002` with H serialized, and
STATE is FINALIZED. For TOTAL_LEN at most `2^125 - 1`, which `State.Inv` gives, the count is exact; above it, in states no
run reaches, that the count is taken modulo `2^128` is the model's choice (log entry 14). -/
def Obligations.FinalizeReturnsDigest : Prop :=
  ∀ s : State, s.lifecycle = .active →
    ∃ t, exec .finalize s = .next t ∧
      t.hash = compressAll s.hash (fullBlocks (s.valid ++ [0x80] ++
        List.replicate (if s.bufLen.toNat ≤ 111 then 111 - s.bufLen.toNat else 239 - s.bufLen.toNat) 0 ++
        toBe128 (8 * s.totalLen))) ∧
      t.lifecycle = .finalized ∧ t.host = s.host ∧ t.outstanding = none ∧
      t.responses = ⟨0x00000002, some (serialize t.hash)⟩ :: s.responses

/-- R86: FINALIZE outside ACTIVE changes no register, H among them, and returns INVALID_STATE without a digest. -/
def Obligations.FinalizeOutsideActiveRaises : Prop :=
  ∀ s : State, s.lifecycle ≠ .active →
    ∃ t, exec .finalize s = .next t ∧ SameRegisters s t ∧ t.host = s.host ∧ t.outstanding = none ∧
      t.responses =
        ⟨if s.lifecycle = .finalized then 0x00010002 else 0x00010000, none⟩ :: s.responses

/-- A FINALIZE after the message `m` was absorbed returns the one-shot digest of `m`: a function of the message alone,
not of how it was split or of any earlier message (41_padding.md R96, R98, marked by the spec as derived). -/
def Obligations.FinalizeReturnsMessageDigest : Prop :=
  ∀ (s : State) (m : List Byte), s.Absorbed m →
    ∃ t, exec .finalize s = .next t ∧ t.lifecycle = .finalized ∧
      t.hash = compressAll iv (fullBlocks (paddedMessage m)) ∧
      t.responses = ⟨0x00000002, some (sha512 m)⟩ :: s.responses

/-- CREATE begins the empty message, and each successful UPDATE appends its payload to the message absorbed. -/
def Obligations.CommandsBuildMessage : Prop :=
  (∀ s : State, ∃ t, exec .create s = .next t ∧ t.Absorbed []) ∧
  (∀ (s : State) (m p : List Byte), s.Absorbed m → m.length + p.length ≤ 2 ^ 125 - 1 →
    ∃ t, exec (.update p) s = .next t ∧ t.Absorbed (m ++ p))

/-! ### DIGEST (40_streaming.md section 5) -/

/-- DIGEST completes in every state for a payload of at most `2^125 - 1` bytes: it returns the one-shot digest of its
payload with STATUS `0x00000002`, and leaves STATE FINALIZED and H with the final words. -/
def Obligations.DigestReturnsPayloadDigest : Prop :=
  ∀ (s : State) (p : List Byte), p.length ≤ 2 ^ 125 - 1 →
    ∃ t, exec (.digest p) s = .next t ∧ t.lifecycle = .finalized ∧
      t.hash = compressAll iv (fullBlocks (paddedMessage p)) ∧ t.host = s.host ∧ t.outstanding = none ∧
      t.responses = ⟨0x00000002, some (sha512 p)⟩ :: s.responses

/-- 40_streaming.md R88, marked by the spec as derived: DIGEST of `p1 ++ ... ++ pk` returns the response, and leaves the
STATE and H, of CREATE, UPDATEs of `p1, ..., pk` and FINALIZE, from any two states. -/
def Obligations.DigestEqualsStreaming : Prop :=
  ∀ (s s' : State) (ps : List (List Byte)), ps.flatten.length ≤ 2 ^ 125 - 1 →
    ∃ t u r, exec (.digest ps.flatten) s = .next t ∧
      runAll (.create :: ps.map .update ++ [.finalize]) s' = .next u ∧
      t.lifecycle = u.lifecycle ∧ t.hash = u.hash ∧
      t.responses.head? = some r ∧ u.responses.head? = some r

/-! ### Errors and responses (60_exceptions.md; 10_state.md section 3; 30_encoding.md section 3) -/

/-- R117: a legal command answers ERR 1 exactly when it is UPDATE or FINALIZE and STATE is not ACTIVE, and then nothing
but that ERR is recorded. -/
def Obligations.InvalidStateExactly : Prop :=
  ∀ (s t : State) (i : Instr) (r : Response), exec i s = .next t → t.responses = r :: s.responses →
    (r.errField = 1 ↔ ((∃ p, i = .update p) ∨ i = .finalize) ∧ s.lifecycle ≠ .active) ∧
    (r.errField = 1 → SameRegisters s t ∧ t.host = s.host ∧ r.digest = none)

/-- R118: a malformed command raises ILLEGAL_COMMAND in every STATE: ERR 2, no digest, no register changed. -/
def Obligations.IllegalCommandRaises : Prop :=
  ∀ (s : State) (c : Command), s.outstanding = some c → s.undisturbed → Malformed c →
    ∃ t, step s = .next t ∧ SameRegisters s t ∧ t.outstanding = none ∧
      t.responses = ⟨statusWord s.lifecycle s.bufLen .illegalCommand, none⟩ :: s.responses

/-- R119: ERR 3 is answered exactly by an UPDATE in ACTIVE that would pass `2^125 - 1` bytes and by a DIGEST of more than
`2^125 - 1` bytes. -/
def Obligations.LengthOverflowExactly : Prop :=
  ∀ (s t : State) (i : Instr) (r : Response), exec i s = .next t → t.responses = r :: s.responses →
    (r.errField = 3 ↔
      (∃ p, i = .update p ∧ s.lifecycle = .active ∧ 2 ^ 125 - 1 < s.totalLen.toNat + p.length) ∨
      (∃ p, i = .digest p ∧ 2 ^ 125 - 1 < p.length))

/-- R121: a command reports exactly one error, ILLEGAL_COMMAND before INVALID_STATE before LENGTH_OVERFLOW, and 0 when no
condition holds. -/
def Obligations.ErrorPriority : Prop :=
  ∀ (s t : State) (c : Command) (r : Response), perform c s = .next t → t.responses = r :: s.responses →
    (Malformed c → r.errField = 2) ∧
    (¬ Malformed c → (c.word = 2 ∨ c.word = 3) → s.lifecycle ≠ .active → r.errField = 1) ∧
    (¬ Malformed c → c.word = 2 → s.lifecycle = .active → 2 ^ 125 - 1 < s.totalLen.toNat + c.payload.length →
      r.errField = 3) ∧
    (¬ Malformed c → c.word = 4 → 2 ^ 125 - 1 < c.payload.length → r.errField = 3) ∧
    (¬ Malformed c → c.word = 1 → r.errField = 0) ∧
    (¬ Malformed c → c.word = 2 → s.lifecycle = .active → s.totalLen.toNat + c.payload.length ≤ 2 ^ 125 - 1 →
      r.errField = 0) ∧
    (¬ Malformed c → c.word = 3 → s.lifecycle = .active → r.errField = 0) ∧
    (¬ Malformed c → c.word = 4 → c.payload.length ≤ 2 ^ 125 - 1 → r.errField = 0)

/-- R122: an error changes no register and returns no digest; its STATUS shows the unchanged STATE and BUF_LEN. -/
def Obligations.ErrorsChangeNothing : Prop :=
  ∀ (s t : State) (c : Command) (r : Response), perform c s = .next t → t.responses = r :: s.responses →
    r.errField ≠ 0 →
    SameRegisters s t ∧ t.host = s.host ∧ r.digest = none ∧ r.stateField = s.lifecycle.bits ∧
      r.bufLenField = if s.lifecycle = .active then s.bufLen else 0

/-- An error leaves no trace in what follows: the next command answers as it would have without the erroring one, and
leaves the same registers. -/
def Obligations.ErrorsAreNotSticky : Prop :=
  ∀ (s t : State) (c d : Command) (r : Response),
    perform c s = .next t → t.responses = r :: s.responses → r.errField ≠ 0 →
    ∃ u v q, perform d s = .next u ∧ perform d t = .next v ∧ SameRegisters u v ∧
      u.responses = q :: s.responses ∧ v.responses = q :: t.responses

/-- R67: every command, legal or not, returns exactly one response: a STATUS word of the layout of 10_state.md and no
digest or one of exactly 64 bytes. -/
def Obligations.OneResponsePerCommand : Prop :=
  ∀ (s : State) (c : Command), s.outstanding = some c → s.undisturbed →
    ∃ t r e, step s = .next t ∧ t.responses = r :: s.responses ∧ t.outstanding = none ∧
      r.status = statusWord t.lifecycle t.bufLen e ∧
      (r.digest = none ∨ ∃ d, r.digest = some d ∧ d.length = 64)

/-- R68: a digest is returned exactly by a FINALIZE or DIGEST that answers ERR 0. -/
def Obligations.DigestPresentExactly : Prop :=
  ∀ (s t : State) (c : Command) (r : Response), perform c s = .next t → t.responses = r :: s.responses →
    (r.digest.isSome ↔
      (decode c = .legal .finalize ∨ ∃ p, decode c = .legal (.digest p)) ∧ r.errField = 0)

/-- R31, R33: the STATUS of every response shows STATE and, when ACTIVE, BUF_LEN as they stand once the command is
done, which for an error is as they stood before it; its reserved bits are 0 and ERR is at most 3. -/
def Obligations.StatusShowsState : Prop :=
  ∀ (s t : State) (c : Command) (r : Response), perform c s = .next t → t.responses = r :: s.responses →
    r.stateField = t.lifecycle.bits ∧
    r.bufLenField = (if t.lifecycle = .active then t.bufLen else 0) ∧
    (r.errField ≠ 0 → t.lifecycle = s.lifecycle ∧ t.bufLen = s.bufLen) ∧
    r.status.extractLsb' 2 6 = 0 ∧ r.status.extractLsb' 15 1 = 0 ∧ r.status.extractLsb' 20 12 = 0 ∧
    r.errField.toNat ≤ 3

/-! ### Lifecycle (40_streaming.md section 1; 10_state.md R24 to R27) -/

/-- The lifecycle each command leaves, for every STATE it finds. -/
def Obligations.LifecycleTransitions : Prop :=
  ∀ (s t : State) (i : Instr), exec i s = .next t →
    (i = .create → t.lifecycle = .active) ∧
    (∀ p, i = .update p → t.lifecycle = s.lifecycle) ∧
    (i = .finalize → t.lifecycle = if s.lifecycle = .active then .finalized else s.lifecycle) ∧
    (∀ p, i = .digest p → t.lifecycle = if p.length ≤ 2 ^ 125 - 1 then .finalized else s.lifecycle)

/-- R25: `finalized` is STATE = FINALIZED; it becomes true only by a successful FINALIZE or DIGEST, false only by
CREATE, DIGEST or reset, and while it is true an UPDATE is invalid. -/
def Obligations.FinalizedChangesOnlyBy : Prop :=
  (∀ s : State, s.finalized = true ↔ s.lifecycle = .finalized) ∧
  (∀ s t : State, step s = .next t → s.finalized = false → t.finalized = true →
    ∃ c r, s.outstanding = some c ∧ (decode c = .legal .finalize ∨ ∃ p, decode c = .legal (.digest p)) ∧
      t.responses = r :: s.responses ∧ r.errField = 0) ∧
  (∀ s t : State, step s = .next t → s.finalized = true → t.finalized = false →
    (∃ rest, s.host = .reset :: rest) ∨ ∃ c, s.outstanding = some c ∧ decode c = .legal .create) ∧
  (∀ (s t : State) (p : List Byte), exec (.update p) s = .next t → s.finalized = true →
    t.responses = ⟨0x00010002, none⟩ :: s.responses)

/-- In FINALIZED, H is changed by CREATE, DIGEST or reset and by nothing else. -/
def Obligations.FinalWordsAreKept : Prop :=
  ∀ s t : State, step s = .next t → s.lifecycle = .finalized → t.hash ≠ s.hash →
    (∃ rest, s.host = .reset :: rest) ∨
    ∃ c, s.outstanding = some c ∧ (decode c = .legal .create ∨ ∃ p, decode c = .legal (.digest p))

/-- The invariant of 10_state.md R26 (in part marked by the spec as derived) holds right after reset; it rests on no reset
value that the model chose (log entry 3). -/
def Obligations.ResetMeetsInvariant : Prop := State.reset.Inv

/-- Every step keeps the invariant of 10_state.md R26 (in part marked by the spec as derived): an ACTIVE engine's H,
BUF, BUF_LEN and TOTAL_LEN are those of the message absorbed since the last CREATE, a FINALIZED engine's H serializes to
the last digest returned, and every response has its form. -/
def Obligations.StepKeepsInvariant : Prop := ∀ s t : State, s.Inv → step s = .next t → t.Inv

/-! ### Reset and the host's protocol (70_reset_and_hazards.md) -/

/-- The engine is UNINIT with no command outstanding right after reset, and a reset during a run gets it there at once:
it abandons an outstanding command without a response. The list of host moves is the model's choice (log entry 1). -/
def Obligations.ResetGivesUninit : Prop :=
  State.reset.lifecycle = .uninit ∧ State.reset.outstanding = none ∧
  ∀ (s : State) (rest : List HostMove), s.host = .reset :: rest →
    ∃ t, step s = .next t ∧ t.lifecycle = .uninit ∧ t.outstanding = none ∧ t.responses = s.responses ∧
      t.host = rest

/-- While UNINIT, UPDATE and FINALIZE answer `0x00010000` and a malformed command `0x00020000`, and the engine stays
UNINIT (70_reset_and_hazards.md R136, marked by the spec as derived). -/
def Obligations.FirstResponseAfterReset : Prop :=
  ∀ (s : State) (c : Command), s.lifecycle = .uninit → c.word ≠ 1 ∨ c.payload ≠ [] → c.word ≠ 4 →
    ∃ t, perform c s = .next t ∧ t.lifecycle = .uninit ∧
      t.responses = ⟨if Malformed c then 0x00020000 else 0x00010000, none⟩ :: s.responses

/-- Registers that no rule reads make no difference to a step: states that agree on the rest answer states that agree on
the rest. This covers the registers reset leaves unspecified, stale buffer bytes, the registers FINALIZE leaves
unspecified, and every free value. It rests on R135, marked by the spec as derived, and on log entries 1 and 3 to 6. -/
def Obligations.StepHidesUnreadRegisters : Prop :=
  ∀ s t : State, ObsEq s t → ∃ s' t', step s = .next s' ∧ step t = .next t' ∧ ObsEq s' t'

/-- Whatever the registers hold after reset, the host sees the same: from two UNINIT states with the same host moves and
command outstanding, any number of steps returns the same responses (R135, marked by the spec as derived; log entries 1
and 2). -/
def Obligations.ResetRegistersUnobservable : Prop :=
  ∀ (n : Nat) (s t : State), s.lifecycle = .uninit → t.lifecycle = .uninit →
    s.outstanding = t.outstanding → s.host = t.host → s.responses = t.responses →
    ∃ s' t', steps n s = .next s' ∧ steps n t = .next t' ∧ s'.responses = t'.responses

/-- A step runs the decoded command: with a legal command outstanding and no reset next, the step is `exec` of it, a wait
of the host being used up. The host's list of moves is the model's choice (log entry 1). -/
def Obligations.StepRunsDecodedCommand : Prop :=
  ∀ (s : State) (c : Command) (i : Instr), s.outstanding = some c → s.undisturbed → decode c = .legal i →
    step s = exec i s.afterTurn

/-- The host has at most one command outstanding: its next command is accepted only when none is, and else waits while
the engine performs the outstanding one. The rule is 70_reset_and_hazards.md R139; its form, a list of host moves, is the
model's choice (log entry 1). -/
def Obligations.HostIssuesOneCommandAtATime : Prop :=
  ∀ (s : State) (c : Command) (rest : List HostMove), s.host = .issue c :: rest →
    (s.outstanding = none → step s = .next { s with outstanding := some c, host := rest }) ∧
    (∀ d, s.outstanding = some d → ∃ t, step s = .next t ∧ t.outstanding = none ∧ t.host = .issue c :: rest)

/-- Between commands the engine is idle and keeps its state (60_exceptions.md R133). That an idle engine takes steps at
all is the model's choice (log entry 7). -/
def Obligations.IdleEngineKeepsState : Prop :=
  ∀ s : State, s.outstanding = none → (s.host = [] ∨ ∃ rest, s.host = .wait :: rest) →
    ∃ t, step s = .next t ∧ SameRegisters s t ∧ t.outstanding = none ∧ t.responses = s.responses ∧
      t.host = s.host.tail

/-- The engine never hangs and never stops: every step answers a next state, and returns at most one response
(70_reset_and_hazards.md R141). That an idle engine takes steps at all (log entry 7), that an error is a next state and no
fault (log entry 10) and that responses are kept as a history (log entry 2) are the model's choices. -/
def Obligations.EveryStepCompletes : Prop :=
  ∀ s : State, ∃ t, step s = .next t ∧ (t.responses = s.responses ∨ ∃ r, t.responses = r :: s.responses)

/-! ### Padding and serialization (41_padding.md) -/

/-- R93: PadTail appends `0x80`, zero bytes and the length field; it is one block for at most 111 buffered bytes and two
from 112. -/
def Obligations.PadTailShape : Prop :=
  (∀ (t : List Byte) (total : BitVec 128), t.length ≤ 127 →
    ∃ k, (t.length + 1 + k) % 128 = 112 ∧ (∀ j, (t.length + 1 + j) % 128 = 112 → k ≤ j) ∧
      padTail t total = t ++ [0x80] ++ List.replicate k 0 ++ toBe128 (8 * total) ∧
      (padTail t total).length = t.length + 1 + k + 16 ∧
      (padTail t total).length = (if t.length ≤ 111 then 128 else 256)) ∧
  padTail [0x61, 0x62, 0x63] 3 = [0x61, 0x62, 0x63, 0x80] ++ List.replicate 108 0 ++ List.replicate 15 0 ++ [0x18]

/-- 41_padding.md R92, marked by the spec as derived: the length field is 16 bytes that read, most significant first, as
exactly 8 times TOTAL_LEN, for every count up to `2^125 - 1`. -/
def Obligations.LengthFieldExact : Prop :=
  ∀ total : BitVec 128, total.toNat ≤ 2 ^ 125 - 1 →
    (lengthField total).length = 16 ∧
    (lengthField total).foldl (fun acc b => 256 * acc + b.toNat) 0 = 8 * total.toNat

/-- 41_padding.md R95, R96, marked by the spec as derived: a padded message is a whole number of blocks: `floor(L /
128)` and one more, or two more when `L mod 128 ≥ 112`. -/
def Obligations.CompressionCount : Prop :=
  ∀ m : List Byte, (paddedMessage m).length = 128 * compressions m.length ∧
    (fullBlocks (paddedMessage m)).length = m.length / 128 + if m.length % 128 ≤ 111 then 1 else 2

/-- R97: the digest is 64 bytes, and byte `8i + j` is `H[i][63-8j : 56-8j]`. -/
def Obligations.SerializeBytes : Prop :=
  ∀ h : HashWords, (serialize h).length = 64 ∧
    ∀ i j w, i < 8 → j < 8 → h.toList[i]? = some w →
      (serialize h)[8 * i + j]? = some (w.extractLsb' (56 - 8 * j) 8)

/-! ### The functions of SHA-512 (00_scope.md section 5; 42_schedule.md; 43_round.md) -/

/-- Eight bytes read big-endian: the first is the most significant, and writing the word gives the bytes back. -/
def Obligations.BigEndianWords : Prop :=
  (∀ b0 b1 b2 b3 b4 b5 b6 b7 : Byte,
    (be64 [b0, b1, b2, b3, b4, b5, b6, b7]).toNat =
      b0.toNat * 2 ^ 56 + b1.toNat * 2 ^ 48 + b2.toNat * 2 ^ 40 + b3.toNat * 2 ^ 32 +
      b4.toNat * 2 ^ 24 + b5.toNat * 2 ^ 16 + b6.toNat * 2 ^ 8 + b7.toNat) ∧
  (∀ w : Word, be64 (toBe64 w) = w) ∧
  (∀ s : List Byte, s.length = 8 → toBe64 (be64 s) = s)

/-- SHR brings zeros in at bit 63, and ROTR brings the bits that leave bit 0 back in at bit 63. -/
def Obligations.ShiftAndRotateBits : Prop :=
  ∀ (x : Word) (n i : Nat), 0 < n → n < 64 → i < 64 →
    (shr x n).getLsbD i = (decide (i + n < 64) && x.getLsbD (i + n)) ∧
    (rotr x n).getLsbD i = x.getLsbD ((i + n) % 64)

/-- R99, R100, R107, R108: each sigma's definition, its linearity over XOR, and its values at 0, at all ones and at 1. -/
def Obligations.SigmaFunctions : Prop :=
  (∀ x : Word,
    smallSigma0 x = rotr x 1 ^^^ rotr x 8 ^^^ shr x 7 ∧ smallSigma1 x = rotr x 19 ^^^ rotr x 61 ^^^ shr x 6 ∧
    bigSigma0 x = rotr x 28 ^^^ rotr x 34 ^^^ rotr x 39 ∧ bigSigma1 x = rotr x 14 ^^^ rotr x 18 ^^^ rotr x 41) ∧
  (∀ x y : Word,
    smallSigma0 (x ^^^ y) = smallSigma0 x ^^^ smallSigma0 y ∧ smallSigma1 (x ^^^ y) = smallSigma1 x ^^^ smallSigma1 y ∧
    bigSigma0 (x ^^^ y) = bigSigma0 x ^^^ bigSigma0 y ∧ bigSigma1 (x ^^^ y) = bigSigma1 x ^^^ bigSigma1 y) ∧
  (smallSigma0 0 = 0 ∧ smallSigma1 0 = 0 ∧ bigSigma0 0 = 0 ∧ bigSigma1 0 = 0) ∧
  (smallSigma0 0xFFFFFFFFFFFFFFFF = 0x01ffffffffffffff ∧ smallSigma1 0xFFFFFFFFFFFFFFFF = 0x03ffffffffffffff ∧
    bigSigma0 0xFFFFFFFFFFFFFFFF = 0xFFFFFFFFFFFFFFFF ∧ bigSigma1 0xFFFFFFFFFFFFFFFF = 0xFFFFFFFFFFFFFFFF) ∧
  (smallSigma0 1 = 0x8100000000000000 ∧ smallSigma1 1 = 0x0000200000000008 ∧
    bigSigma0 1 = 0x0000001042000000 ∧ bigSigma1 1 = 0x0004400000800000)

/-- R105, R106: Ch picks `y`'s bit where `x`'s is 1 and `z`'s where it is 0, Maj the majority of the three bits; with the
properties and examples of the rules. -/
def Obligations.ChooseAndMajorityBits : Prop :=
  (∀ (x y z : Word) (i : Nat),
    (ch x y z).getLsbD i = (if x.getLsbD i then y.getLsbD i else z.getLsbD i) ∧
    (maj x y z).getLsbD i =
      decide (2 ≤ (x.getLsbD i).toNat + (y.getLsbD i).toNat + (z.getLsbD i).toNat)) ∧
  (∀ x y z : Word, ch x y z = (x &&& y) ^^^ (~~~x &&& z) ∧
    maj x y z = (x &&& y) ^^^ (x &&& z) ^^^ (y &&& z) ∧
    ch 0xFFFFFFFFFFFFFFFF y z = y ∧ ch 0 y z = z ∧ ch x y y = y ∧
    maj x y z = maj y x z ∧ maj x y z = maj x z y ∧ maj x x z = x) ∧
  maj 0xFFFFFFFFFFFFFFFF 0 0 = 0 ∧
  ch 0xf0f0f0f0f0f0f0f0 0x0123456789abcdef 0xfedcba9876543210 = 0x0e2c4a6886a4c2e0 ∧
  maj 0xff00ff00ff00ff00 0x0ff00ff00ff00ff0 0x00ff00ff00ff00ff = 0x0ff00ff00ff00ff0

/-- R101, R102: the schedule has 80 words, the first 16 the block's big-endian words and each later one given by the
recurrence, for every block. -/
def Obligations.ScheduleRecurrence : Prop :=
  ∀ b : List Byte, (schedule b).length = 80 ∧
    (∀ t, t < 16 → (schedule b).getD t 0 = be64 ((b.drop (8 * t)).take 8)) ∧
    (∀ t, 16 ≤ t → t < 80 →
      (schedule b).getD t 0 =
        smallSigma1 ((schedule b).getD (t - 2) 0) + (schedule b).getD (t - 7) 0 +
        smallSigma0 ((schedule b).getD (t - 15) 0) + (schedule b).getD (t - 16) 0)

/-- R76: CREATE loads H with the IV, and each IV word is the first 64 bits of the fractional part of the square root of its
prime: for some whole part `q`, `q * 2^64 + IV[i]` is the integer square root of `p * 2^128`. -/
def Obligations.InitialHashFromSquareRoots : Prop :=
  iv.toList.length = 8 ∧
  (∀ x ∈ iv.toList.zip [2, 3, 5, 7, 11, 13, 17, 19], ∃ q < 32,
    (q * 2 ^ 64 + x.1.toNat) ^ 2 ≤ x.2 * 2 ^ 128 ∧ x.2 * 2 ^ 128 < (q * 2 ^ 64 + x.1.toNat + 1) ^ 2) ∧
  ∀ s : State, ∃ t, exec .create s = .next t ∧ t.hash = iv

/-- R109: there are 80 round constants, each the first 64 bits of the fractional part of the cube root of its prime: for
some whole part `q`, `q * 2^64 + K[t]` is the integer cube root of `p * 2^192`. -/
def Obligations.RoundConstantsFromCubeRoots : Prop :=
  roundConstants.length = 80 ∧
  ∀ x ∈ roundConstants.zip firstPrimes, ∃ q < 32,
    (q * 2 ^ 64 + x.1.toNat) ^ 3 ≤ x.2 * 2 ^ 192 ∧ x.2 * 2 ^ 192 < (q * 2 ^ 64 + x.1.toNat + 1) ^ 3

/-- R111: one round, all eight variables read before any is written; and round 0 of the padded "abc" block. -/
def Obligations.RoundUpdatesWorkingVariables : Prop :=
  (∀ (v : Working) (k w : Word),
    let t1 := v.h + bigSigma1 v.e + ch v.e v.f v.g + k + w
    let t2 := bigSigma0 v.a + maj v.a v.b v.c
    roundStep v k w = ⟨t1 + t2, v.a, v.b, v.c, v.d + t1, v.e, v.f, v.g⟩) ∧
  roundT1 (loadWorking iv) 0x428a2f98d728ae22 0x6162638000000000 = 0xb37b0cfa1b97e8a0 ∧
  roundT2 (loadWorking iv) = 0x4334c1bea164f555 ∧
  (roundStep (loadWorking iv) 0x428a2f98d728ae22 0x6162638000000000).a = 0xf6afceb8bcfcddf5 ∧
  (roundStep (loadWorking iv) 0x428a2f98d728ae22 0x6162638000000000).e = 0x58cb02347ab51f91

/-- R110, R114: a compression loads the working variables from H, runs rounds 0 to 79 in order, round `t` with
`K[t]` and `W[t]`, and adds the results into H. -/
def Obligations.CompressRunsEightyRounds : Prop :=
  (∀ (h : HashWords) (b : List Byte), ∃ v : Nat → Working,
    v 0 = ⟨h.h0, h.h1, h.h2, h.h3, h.h4, h.h5, h.h6, h.h7⟩ ∧
    (∀ t, t < 80 → v (t + 1) = roundStep (v t) (roundConstants.getD t 0) ((schedule b).getD t 0)) ∧
    compress h b = ⟨h.h0 + (v 80).a, h.h1 + (v 80).b, h.h2 + (v 80).c, h.h3 + (v 80).d,
      h.h4 + (v 80).e, h.h5 + (v 80).f, h.h6 + (v 80).g, h.h7 + (v 80).h⟩) ∧
  compress iv (padTail [0x61, 0x62, 0x63] 3) =
    ⟨0xddaf35a193617aba, 0xcc417349ae204131, 0x12e6fa4e89a97ea2, 0x0a9eeee64b55d39a,
     0x2192992a274fc1a8, 0x36ba3c23a3feebbd, 0x454d4423643ce80e, 0x2a9ac94fa54ca49f⟩

/-! ### Instances (20_memory.md R53; 60_exceptions.md R131) -/

/-- A step of one instance never changes another, reads none but its own, and steps of different instances give the same
platform in either order (20_memory.md R53). The platform as a list, its steps, and that a position with no instance changes
nothing are the model's choice (log entry 12). -/
def Obligations.InstancesShareNothing : Prop :=
  (∀ (p : Platform) (k : Nat), ∃ q, p.stepAt k = .next q ∧ q.length = p.length ∧ ∀ j, j ≠ k → q[j]? = p[j]?) ∧
  (∀ (p p' q q' : Platform) (k : Nat), p.stepAt k = .next q → p'.stepAt k = .next q' → p[k]? = p'[k]? →
    q[k]? = q'[k]?) ∧
  (∀ (p q r : Platform) (j k : Nat), j ≠ k → p.stepAt j = .next q → q.stepAt k = .next r →
    ∃ q', p.stepAt k = .next q' ∧ q'.stepAt j = .next r)

/-! ### The host's notation (30_encoding.md R69 to R73) -/

/-- R72: `UPDATEN <payload>, <count>` is `count` UPDATE lines in a row, none for 0. -/
def Obligations.UpdateNExpands : Prop :=
  ∀ (p : PayloadExpr) (count : Nat) (before after : List Line),
    assemble (before ++ .updateN p count :: after) =
      assemble (before ++ List.replicate count (.update p) ++ after)

/-- R69: a digest is rendered as 128 characters, byte 0 first and its high nibble first, each the lowercase hex digit of its
nibble. -/
def Obligations.DigestRendering : Prop :=
  ∀ h : HashWords, (renderHex (serialize h)).length = 128 ∧
    ∀ i b, (serialize h)[i]? = some b →
      (renderHex (serialize h))[2 * i]? = "0123456789abcdef".toList[b.toNat / 16]? ∧
      (renderHex (serialize h))[2 * i + 1]? = "0123456789abcdef".toList[b.toNat % 16]?
end

