-- ==== Sys2Proof/Laws/Blocks.lean ====
section
/-! SUPPORT. How a byte sequence is cut into blocks, and how the cut of a sequence grows by one byte. -/

namespace Sys2Proof.Machine

@[simp] theorem firstBlocks_length (k : Nat) (m : List Byte) : (firstBlocks k m).length = k := by
  induction k generalizing m with
  | zero => rfl
  | succ k ih => simp [firstBlocks, ih]

/-- The first `k` blocks lie in the first `128 k` bytes. -/
theorem firstBlocks_append (k : Nat) (m t : List Byte) (h : 128 * k ≤ m.length) :
    firstBlocks k (m ++ t) = firstBlocks k m := by
  induction k generalizing m with
  | zero => rfl
  | succ k ih =>
    have h1 : (m ++ t).take 128 = m.take 128 := List.take_append_of_le_length (by omega)
    have h2 : (m ++ t).drop 128 = m.drop 128 ++ t := List.drop_append_of_le_length (by omega)
    rw [firstBlocks, firstBlocks, h1, h2, ih _ (by simp; omega)]

/-- One block more is the block at `128 k`. -/
theorem firstBlocks_succ (k : Nat) (m : List Byte) :
    firstBlocks (k + 1) m = firstBlocks k m ++ [(m.drop (128 * k)).take 128] := by
  induction k generalizing m with
  | zero => simp [firstBlocks]
  | succ k ih =>
    have h : 128 * (k + 1) = 128 + 128 * k := by omega
    rw [firstBlocks, ih, firstBlocks, List.drop_drop, List.cons_append, h]

/-- Blocks of a sequence that starts with `k` whole blocks. -/
theorem firstBlocks_add (j k : Nat) (m : List Byte) :
    firstBlocks (j + k) m = firstBlocks j m ++ firstBlocks k (m.drop (128 * j)) := by
  induction j generalizing m with
  | zero => simp [firstBlocks]
  | succ j ih =>
    have h : 128 * (j + 1) = 128 + 128 * j := by omega
    rw [Nat.add_right_comm, firstBlocks, ih, firstBlocks, List.drop_drop, List.cons_append, h]

@[simp] theorem fullBlocks_nil : fullBlocks [] = [] := rfl

@[simp] theorem partialBlock_nil : partialBlock [] = [] := rfl

@[simp] theorem partialBlock_length (m : List Byte) : (partialBlock m).length = m.length % 128 := by
  simp [partialBlock]; omega

/-- A sequence shorter than a block has no full block. -/
theorem fullBlocks_short (m : List Byte) (h : m.length < 128) : fullBlocks m = [] := by
  simp [fullBlocks, Nat.div_eq_of_lt h, firstBlocks]

theorem partialBlock_short (m : List Byte) (h : m.length < 128) : partialBlock m = m := by
  simp [partialBlock, Nat.div_eq_of_lt h]

/-- The complete blocks of `m ++ t` are those of `m`, then those of the partial block of `m` followed by `t`. -/
theorem fullBlocks_append (m t : List Byte) :
    fullBlocks (m ++ t) = fullBlocks m ++ fullBlocks (partialBlock m ++ t) := by
  have hlen : (m ++ t).length / 128 = m.length / 128 + (partialBlock m ++ t).length / 128 := by
    simp only [List.length_append, partialBlock_length]; omega
  rw [fullBlocks, hlen, firstBlocks_add, firstBlocks_append _ _ _ (by omega),
    List.drop_append_of_le_length (by omega)]
  rfl

theorem partialBlock_append (m t : List Byte) :
    partialBlock (m ++ t) = partialBlock (partialBlock m ++ t) := by
  have hm : 128 * (m.length / 128) ≤ m.length := by omega
  have hp : partialBlock m ++ t = (m ++ t).drop (128 * (m.length / 128)) := by
    rw [partialBlock, List.drop_append_of_le_length hm]
  rw [hp, partialBlock, partialBlock, List.drop_drop]
  congr 1
  simp only [List.length_drop, List.length_append]
  omega

/-- A sequence of exactly one block. -/
theorem fullBlocks_one (m : List Byte) (h : m.length = 128) : fullBlocks m = [m] := by
  simp [fullBlocks, h, firstBlocks, List.take_of_length_le]

theorem partialBlock_one (m : List Byte) (h : m.length = 128) : partialBlock m = [] := by
  simp [partialBlock, h]

@[simp] theorem compressAll_nil (h : HashWords) : compressAll h [] = h := rfl

theorem compressAll_append (h : HashWords) (a b : List (List Byte)) :
    compressAll h (a ++ b) = compressAll (compressAll h a) b := by
  simp [compressAll, List.foldl_append]

@[simp] theorem compressAll_one (h : HashWords) (b : List Byte) : compressAll h [b] = compress h b := rfl

end Sys2Proof.Machine
end

