-- ==== Sys2Proof/Laws/State.lean ====
section
/-! SUPPORT. One lemma per field for each operation over the state, so that later proofs unfold no record update. -/

namespace Sys2Proof.Machine

@[simp] theorem State.respond_hash (s : State) (e : ErrCode) (d : Option (List Byte)) : (s.respond e d).hash = s.hash := rfl
@[simp] theorem State.respond_buf (s : State) (e : ErrCode) (d : Option (List Byte)) : (s.respond e d).buf = s.buf := rfl
@[simp] theorem State.respond_bufLen (s : State) (e : ErrCode) (d : Option (List Byte)) : (s.respond e d).bufLen = s.bufLen := rfl
@[simp] theorem State.respond_totalLen (s : State) (e : ErrCode) (d : Option (List Byte)) : (s.respond e d).totalLen = s.totalLen := rfl
@[simp] theorem State.respond_lifecycle (s : State) (e : ErrCode) (d : Option (List Byte)) : (s.respond e d).lifecycle = s.lifecycle := rfl
@[simp] theorem State.respond_outstanding (s : State) (e : ErrCode) (d : Option (List Byte)) : (s.respond e d).outstanding = none := rfl
@[simp] theorem State.respond_host (s : State) (e : ErrCode) (d : Option (List Byte)) : (s.respond e d).host = s.host := rfl
@[simp] theorem State.respond_responses (s : State) (e : ErrCode) (d : Option (List Byte)) : (s.respond e d).responses = ⟨s.statusNow e, d⟩ :: s.responses := rfl
@[simp] theorem State.respond_draws (s : State) (e : ErrCode) (d : Option (List Byte)) : (s.respond e d).draws = s.draws := rfl

@[simp] theorem State.raise_hash (s : State) (e : ErrCode) : (s.raise e).hash = s.hash := rfl
@[simp] theorem State.raise_buf (s : State) (e : ErrCode) : (s.raise e).buf = s.buf := rfl
@[simp] theorem State.raise_bufLen (s : State) (e : ErrCode) : (s.raise e).bufLen = s.bufLen := rfl
@[simp] theorem State.raise_totalLen (s : State) (e : ErrCode) : (s.raise e).totalLen = s.totalLen := rfl
@[simp] theorem State.raise_lifecycle (s : State) (e : ErrCode) : (s.raise e).lifecycle = s.lifecycle := rfl
@[simp] theorem State.raise_outstanding (s : State) (e : ErrCode) : (s.raise e).outstanding = none := rfl
@[simp] theorem State.raise_host (s : State) (e : ErrCode) : (s.raise e).host = s.host := rfl
@[simp] theorem State.raise_responses (s : State) (e : ErrCode) : (s.raise e).responses = ⟨s.statusNow e, none⟩ :: s.responses := rfl
@[simp] theorem State.raise_draws (s : State) (e : ErrCode) : (s.raise e).draws = s.draws := rfl

@[simp] theorem State.restart_hash (s : State) : (s.restart).hash = iv := rfl
@[simp] theorem State.restart_buf (s : State) : (s.restart).buf = s.buf := rfl
@[simp] theorem State.restart_bufLen (s : State) : (s.restart).bufLen = 0 := rfl
@[simp] theorem State.restart_totalLen (s : State) : (s.restart).totalLen = 0 := rfl
@[simp] theorem State.restart_lifecycle (s : State) : (s.restart).lifecycle = .active := rfl
@[simp] theorem State.restart_outstanding (s : State) : (s.restart).outstanding = s.outstanding := rfl
@[simp] theorem State.restart_host (s : State) : (s.restart).host = s.host := rfl
@[simp] theorem State.restart_responses (s : State) : (s.restart).responses = s.responses := rfl
@[simp] theorem State.restart_draws (s : State) : (s.restart).draws = s.draws := rfl

@[simp] theorem State.addTotal_hash (s : State) (n : Nat) : (s.addTotal n).hash = s.hash := rfl
@[simp] theorem State.addTotal_buf (s : State) (n : Nat) : (s.addTotal n).buf = s.buf := rfl
@[simp] theorem State.addTotal_bufLen (s : State) (n : Nat) : (s.addTotal n).bufLen = s.bufLen := rfl
@[simp] theorem State.addTotal_totalLen (s : State) (n : Nat) : (s.addTotal n).totalLen = BitVec.ofNat 128 (s.totalLen.toNat + n) := rfl
@[simp] theorem State.addTotal_lifecycle (s : State) (n : Nat) : (s.addTotal n).lifecycle = s.lifecycle := rfl
@[simp] theorem State.addTotal_outstanding (s : State) (n : Nat) : (s.addTotal n).outstanding = s.outstanding := rfl
@[simp] theorem State.addTotal_host (s : State) (n : Nat) : (s.addTotal n).host = s.host := rfl
@[simp] theorem State.addTotal_responses (s : State) (n : Nat) : (s.addTotal n).responses = s.responses := rfl
@[simp] theorem State.addTotal_draws (s : State) (n : Nat) : (s.addTotal n).draws = s.draws := rfl

@[simp] theorem State.freeStale_hash (s : State) : (s.freeStale).hash = s.hash := rfl
@[simp] theorem State.freeStale_bufLen (s : State) : (s.freeStale).bufLen = s.bufLen := rfl
@[simp] theorem State.freeStale_totalLen (s : State) : (s.freeStale).totalLen = s.totalLen := rfl
@[simp] theorem State.freeStale_lifecycle (s : State) : (s.freeStale).lifecycle = s.lifecycle := rfl
@[simp] theorem State.freeStale_outstanding (s : State) : (s.freeStale).outstanding = s.outstanding := rfl
@[simp] theorem State.freeStale_host (s : State) : (s.freeStale).host = s.host := rfl
@[simp] theorem State.freeStale_responses (s : State) : (s.freeStale).responses = s.responses := rfl
@[simp] theorem State.freeStale_draws (s : State) : (s.freeStale).draws = s.draws + 1 := rfl

@[simp] theorem State.forgetMessage_hash (s : State) : (s.forgetMessage).hash = s.hash := rfl
@[simp] theorem State.forgetMessage_bufLen (s : State) : (s.forgetMessage).bufLen = Config.freeCount s.draws := rfl
@[simp] theorem State.forgetMessage_totalLen (s : State) : (s.forgetMessage).totalLen = Config.freeTotal s.draws := rfl
@[simp] theorem State.forgetMessage_lifecycle (s : State) : (s.forgetMessage).lifecycle = s.lifecycle := rfl
@[simp] theorem State.forgetMessage_outstanding (s : State) : (s.forgetMessage).outstanding = s.outstanding := rfl
@[simp] theorem State.forgetMessage_host (s : State) : (s.forgetMessage).host = s.host := rfl
@[simp] theorem State.forgetMessage_responses (s : State) : (s.forgetMessage).responses = s.responses := rfl
@[simp] theorem State.forgetMessage_draws (s : State) : (s.forgetMessage).draws = s.draws + 1 := rfl

@[simp] theorem State.close_hash (s : State) : (s.close).hash = s.closingHash := rfl
@[simp] theorem State.close_bufLen (s : State) : (s.close).bufLen = Config.freeCount s.draws := rfl
@[simp] theorem State.close_totalLen (s : State) : (s.close).totalLen = Config.freeTotal s.draws := rfl
@[simp] theorem State.close_lifecycle (s : State) : (s.close).lifecycle = .finalized := rfl
@[simp] theorem State.close_outstanding (s : State) : (s.close).outstanding = s.outstanding := rfl
@[simp] theorem State.close_host (s : State) : (s.close).host = s.host := rfl
@[simp] theorem State.close_responses (s : State) : (s.close).responses = s.responses := rfl
@[simp] theorem State.close_draws (s : State) : (s.close).draws = s.draws + 1 := rfl

@[simp] theorem State.respondDigest_hash (s : State) : (s.respondDigest).hash = s.hash := rfl
@[simp] theorem State.respondDigest_buf (s : State) : (s.respondDigest).buf = s.buf := rfl
@[simp] theorem State.respondDigest_bufLen (s : State) : (s.respondDigest).bufLen = s.bufLen := rfl
@[simp] theorem State.respondDigest_totalLen (s : State) : (s.respondDigest).totalLen = s.totalLen := rfl
@[simp] theorem State.respondDigest_lifecycle (s : State) : (s.respondDigest).lifecycle = s.lifecycle := rfl
@[simp] theorem State.respondDigest_outstanding (s : State) : (s.respondDigest).outstanding = none := rfl
@[simp] theorem State.respondDigest_host (s : State) : (s.respondDigest).host = s.host := rfl
@[simp] theorem State.respondDigest_responses (s : State) : (s.respondDigest).responses = ⟨s.statusNow .ok, some (serialize s.hash)⟩ :: s.responses := rfl
@[simp] theorem State.respondDigest_draws (s : State) : (s.respondDigest).draws = s.draws := rfl

@[simp] theorem State.platformReset_bufLen (s : State) : (s.platformReset).bufLen = Config.freeCount s.draws := rfl
@[simp] theorem State.platformReset_totalLen (s : State) : (s.platformReset).totalLen = Config.freeTotal s.draws := rfl
@[simp] theorem State.platformReset_lifecycle (s : State) : (s.platformReset).lifecycle = .uninit := rfl
@[simp] theorem State.platformReset_outstanding (s : State) : (s.platformReset).outstanding = none := rfl
@[simp] theorem State.platformReset_host (s : State) : (s.platformReset).host = s.host := rfl
@[simp] theorem State.platformReset_responses (s : State) : (s.platformReset).responses = s.responses := rfl
@[simp] theorem State.platformReset_draws (s : State) : (s.platformReset).draws = s.draws + 1 := rfl

end Sys2Proof.Machine
end

