-- ==== Sys2Proof/Laws/Absorb.lean ====
section
/-! SUPPORT. What absorbing bytes does to the context registers, stated over whole byte sequences. -/

namespace Sys2Proof.Machine

@[simp] theorem State.absorb_totalLen (s : State) (b : Byte) : (s.absorb b).totalLen = s.totalLen := by
  unfold State.absorb; split <;> rfl

@[simp] theorem State.absorb_lifecycle (s : State) (b : Byte) : (s.absorb b).lifecycle = s.lifecycle := by
  unfold State.absorb; split <;> rfl

@[simp] theorem State.absorb_outstanding (s : State) (b : Byte) : (s.absorb b).outstanding = s.outstanding := by
  unfold State.absorb; split <;> rfl

@[simp] theorem State.absorb_host (s : State) (b : Byte) : (s.absorb b).host = s.host := by
  unfold State.absorb; split <;> rfl

@[simp] theorem State.absorb_responses (s : State) (b : Byte) : (s.absorb b).responses = s.responses := by
  unfold State.absorb; split <;> rfl

@[simp] theorem State.absorb_draws (s : State) (b : Byte) : (s.absorb b).draws = s.draws := by
  unfold State.absorb; split <;> rfl

@[simp] theorem State.valid_length (s : State) : s.valid.length = s.bufLen.toNat := by
  have := s.bufLen.isLt
  simp [State.valid]; omega

/-- The buffer with one more byte stored, up to and with that byte. -/
theorem State.store_take (s : State) (b : Byte) :
    (s.store b).toList.take (s.bufLen.toNat + 1) = s.valid ++ [b] := by
  have h := s.bufLen.isLt
  have hl : s.bufLen.toNat < s.buf.toList.length := by simpa using h
  rw [State.store, Vector.toList_set, List.take_add_one, List.take_set_of_le (Nat.le_refl _), State.valid,
    List.getElem?_set_self hl]
  rfl

/-- What one `Absorb` does (40_streaming.md R81): the byte joins the valid bytes, and a full block is compressed. -/
theorem State.absorb_spec (s : State) (b : Byte) :
    (s.absorb b).hash = compressAll s.hash (fullBlocks (s.valid ++ [b])) ∧
    (s.absorb b).valid = partialBlock (s.valid ++ [b]) ∧
    (s.absorb b).bufLen.toNat = (s.valid ++ [b]).length % 128 := by
  have hlt := s.bufLen.isLt
  have hlen : (s.valid ++ [b]).length = s.bufLen.toNat + 1 := by simp
  by_cases h : s.bufLen.toNat + 1 = 128
  · have hb : (s.store b).toList = s.valid ++ [b] := by
      rw [← s.store_take b, List.take_of_length_le (by simp; omega)]
    rw [fullBlocks_one _ (by omega), partialBlock_one _ (by omega), hlen, h]
    simp [State.absorb, h, hb, State.valid]
  · rw [fullBlocks_short _ (by omega), partialBlock_short _ (by omega), hlen]
    have hn : (s.bufLen.toNat + 1) % 128 = s.bufLen.toNat + 1 := by omega
    refine ⟨by simp [State.absorb, h], ?_, by simp [State.absorb, h]⟩
    rw [← s.store_take b]
    simp [State.absorb, h, State.valid, hn]

@[simp] theorem State.absorbAll_nil (s : State) : s.absorbAll [] = s := rfl

@[simp] theorem State.absorbAll_cons (s : State) (b : Byte) (p : List Byte) :
    s.absorbAll (b :: p) = (s.absorb b).absorbAll p := rfl

theorem State.absorbAll_append (s : State) (p q : List Byte) :
    s.absorbAll (p ++ q) = (s.absorbAll p).absorbAll q := by
  simp [State.absorbAll, List.foldl_append]

/-- The fields that absorbing never touches. -/
theorem State.absorbAll_frame (s : State) (p : List Byte) :
    (s.absorbAll p).totalLen = s.totalLen ∧ (s.absorbAll p).lifecycle = s.lifecycle ∧
    (s.absorbAll p).outstanding = s.outstanding ∧ (s.absorbAll p).host = s.host ∧
    (s.absorbAll p).responses = s.responses ∧ (s.absorbAll p).draws = s.draws := by
  induction p generalizing s with
  | nil => simp
  | cons b p ih => simpa using ih (s.absorb b)

/-- What absorbing a payload does to H, the valid bytes and BUF_LEN: the blocks that the valid bytes and the payload
complete are compressed, the rest stays buffered (40_streaming.md R78, R81). -/
theorem State.absorbAll_spec (s : State) (p : List Byte) :
    (s.absorbAll p).hash = compressAll s.hash (fullBlocks (s.valid ++ p)) ∧
    (s.absorbAll p).valid = partialBlock (s.valid ++ p) ∧
    (s.absorbAll p).bufLen.toNat = (s.valid ++ p).length % 128 := by
  induction p generalizing s with
  | nil =>
    have h := s.bufLen.isLt
    have hlen : s.valid.length < 128 := by simpa using h
    rw [List.append_nil, fullBlocks_short _ hlen, partialBlock_short _ hlen, Nat.mod_eq_of_lt hlen]
    simp
  | cons b p ih =>
    obtain ⟨h1, h2, h3⟩ := s.absorb_spec b
    obtain ⟨i1, i2, i3⟩ := ih (s.absorb b)
    have hcons : s.valid ++ b :: p = (s.valid ++ [b]) ++ p := by simp
    rw [State.absorbAll_cons, i1, i2, i3, h1, h2, hcons, fullBlocks_append (s.valid ++ [b]), compressAll_append,
      partialBlock_append (s.valid ++ [b])]
    refine ⟨rfl, rfl, ?_⟩
    simp only [List.length_append, partialBlock_length]
    omega

theorem freeTail_take (b : Vector Byte 128) (n draw : Nat) (h : n ≤ 128) :
    (freeTail b n draw).toList.take n = b.toList.take n := by
  simp [freeTail, h]

/-- Free stale bytes leave the valid ones as they are (10_state.md R21). -/
@[simp] theorem State.freeStale_valid (s : State) : s.freeStale.valid = s.valid :=
  freeTail_take s.buf s.bufLen.toNat s.draws (Nat.le_of_lt s.bufLen.isLt)

@[simp] theorem State.addTotal_valid (s : State) (n : Nat) : (s.addTotal n).valid = s.valid := rfl

/-- What taking in a payload does, the empty one included (40_streaming.md R78, R82, R83). -/
theorem State.takeIn_spec (s : State) (p : List Byte) :
    (s.takeIn p).hash = compressAll s.hash (fullBlocks (s.valid ++ p)) ∧
    (s.takeIn p).valid = partialBlock (s.valid ++ p) ∧
    (s.takeIn p).bufLen.toNat = (s.valid ++ p).length % 128 ∧
    (s.takeIn p).totalLen = BitVec.ofNat 128 (s.totalLen.toNat + p.length) := by
  obtain ⟨h1, h2, h3⟩ := s.absorbAll_spec p
  obtain ⟨f1, -⟩ := s.absorbAll_frame p
  unfold State.takeIn
  split
  · next h =>
    subst h
    exact ⟨h1, h2, h3, by simp⟩
  · exact ⟨h1, by simpa using h2, h3, by simp [f1]⟩

/-- The fields that taking in a payload never touches. -/
theorem State.takeIn_frame (s : State) (p : List Byte) :
    (s.takeIn p).lifecycle = s.lifecycle ∧ (s.takeIn p).outstanding = s.outstanding ∧
    (s.takeIn p).host = s.host ∧ (s.takeIn p).responses = s.responses := by
  obtain ⟨-, f2, f3, f4, f5, -⟩ := s.absorbAll_frame p
  unfold State.takeIn
  split <;> simp [*]

@[simp] theorem State.takeIn_nil (s : State) : s.takeIn [] = s := rfl

end Sys2Proof.Machine
end

