-- ==== Sys2Proof/Laws/Decode.lean ====
section
/-! SUPPORT. `decode` read through the whole command word, and when it refuses (30_encoding.md R63 to R65). -/

namespace Sys2Proof

theorem Command.rsvd_toNat (c : Command) : c.rsvd.toNat = c.word.toNat / 16 := by
  have := c.word.isLt
  simp [Command.rsvd, Nat.shiftRight_eq_div_pow]; omega

theorem Command.opc_toNat (c : Command) : c.opc.toNat = c.word.toNat % 16 := by
  simp [Command.opc]

/-- A field is a number exactly when its value is. -/
theorem bitVec_eq_iff {n : Nat} (x y : BitVec n) : x = y ↔ x.toNat = y.toNat := BitVec.toNat_eq

/-- What `decode` answers for each command word and payload. -/
theorem decode_by_word (c : Command) : decode c =
    if c.word = 1 then (if c.payload = [] then .legal .create else .illegal .payloadNotEmpty)
    else if c.word = 2 then .legal (.update c.payload)
    else if c.word = 3 then (if c.payload = [] then .legal .finalize else .illegal .payloadNotEmpty)
    else if c.word = 4 then .legal (.digest c.payload)
    else if c.word.toNat < 16 then .illegal .reservedOpcode else .illegal .reservedBits := by
  unfold decode withoutPayload
  simp only [ne_eq, bitVec_eq_iff, Command.rsvd_toNat, Command.opc_toNat]
  by_cases h : c.word.toNat < 16
  · have h0 : c.word.toNat / 16 = 0 := by omega
    have h1 : c.word.toNat % 16 = c.word.toNat := by omega
    simp [h, h0, h1]
  · have h0 : c.word.toNat / 16 ≠ 0 := by omega
    have h1 : c.word.toNat ≠ 1 := by omega
    have h2 : c.word.toNat ≠ 2 := by omega
    have h3 : c.word.toNat ≠ 3 := by omega
    have h4 : c.word.toNat ≠ 4 := by omega
    simp [h, h0, h1, h2, h3, h4]

namespace Machine

/-- `decode` refuses exactly the malformed commands. -/
theorem malformed_iff (c : Command) : Malformed c ↔ ∃ why, decode c = .illegal why := by
  have hr := c.rsvd_toNat
  have ho := c.opc_toNat
  simp only [Command.rsvd, Command.opc] at hr ho
  rw [decode_by_word]
  simp only [Malformed, ne_eq, bitVec_eq_iff, hr, ho, BitVec.ofNat_eq_ofNat,
    BitVec.toNat_ofNat, Nat.reducePow, Nat.reduceMod]
  by_cases hp : c.payload = []
  all_goals
    simp only [hp, if_true, if_false]
    repeat' split
    all_goals simp
    all_goals omega

end Machine

end Sys2Proof
end

