-- ==== Sys2Proof/Laws/Status.lean ====
section
/-! SUPPORT. The fields of a STATUS word (10_state.md R31 to R33), once for every lifecycle, count and error. -/

namespace Sys2Proof.Machine

/-- STATUS read back field by field. -/
theorem statusWord_fields (l : Lifecycle) (n : BitVec 7) (e : ErrCode) :
    (statusWord l n e).extractLsb' 0 2 = l.bits ∧ (statusWord l n e).extractLsb' 2 6 = 0 ∧
    (statusWord l n e).extractLsb' 8 7 = shownLen l n ∧ (statusWord l n e).extractLsb' 15 1 = 0 ∧
    (statusWord l n e).extractLsb' 16 4 = e.code ∧ (statusWord l n e).extractLsb' 20 12 = 0 := by
  revert n
  cases l <;> cases e <;> decide +kernel

@[simp] theorem stateField_mk (l : Lifecycle) (n : BitVec 7) (e : ErrCode) (d : Option (List Byte)) :
    (Response.mk (statusWord l n e) d).stateField = l.bits := (statusWord_fields l n e).1

@[simp] theorem bufLenField_mk (l : Lifecycle) (n : BitVec 7) (e : ErrCode) (d : Option (List Byte)) :
    (Response.mk (statusWord l n e) d).bufLenField = shownLen l n := (statusWord_fields l n e).2.2.1

@[simp] theorem errField_mk (l : Lifecycle) (n : BitVec 7) (e : ErrCode) (d : Option (List Byte)) :
    (Response.mk (statusWord l n e) d).errField = e.code := (statusWord_fields l n e).2.2.2.2.1

/-- The reserved bits, as one mask. -/
theorem statusWord_reserved (l : Lifecycle) (n : BitVec 7) (e : ErrCode) :
    statusWord l n e &&& 0xFFF080FC = 0 := by
  revert n
  cases l <;> cases e <;> decide +kernel

@[simp] theorem shownLen_active (n : BitVec 7) : shownLen .active n = n := rfl

@[simp] theorem shownLen_uninit (n : BitVec 7) : shownLen .uninit n = 0 := rfl

@[simp] theorem shownLen_finalized (n : BitVec 7) : shownLen .finalized n = 0 := rfl

/-- The STATUS of a successful FINALIZE or DIGEST, whatever BUF_LEN holds (40_streaming.md R85). -/
theorem statusWord_finalized_ok (n : BitVec 7) : statusWord .finalized n .ok = 0x00000002 := by
  revert n
  decide +kernel

/-- An error code is 0 for `ok` alone. -/
theorem ErrCode.code_eq_zero (e : ErrCode) : e.code = 0 ↔ e = .ok := by cases e <;> decide

end Sys2Proof.Machine
end

