-- ==== Sys2Proof/Laws/Exec.lean ====
section
/-! SUPPORT. What a command and a step can do, said once: every later proof about them cites these. -/

namespace Sys2Proof.Machine

/-- Everything `exec` can answer. -/
theorem exec_cases {i : Instr} {s t : State} (h : exec i s = .next t) :
    (i = .create ∧ t = s.restart.respond .ok none) ∨
    (∃ p, i = .update p ∧ s.lifecycle ≠ .active ∧ t = s.raise .invalidState) ∨
    (∃ p, i = .update p ∧ s.lifecycle = .active ∧ Config.maxBytes < s.totalLen.toNat + p.length ∧
      t = s.raise .lengthOverflow) ∨
    (∃ p, i = .update p ∧ s.lifecycle = .active ∧ s.totalLen.toNat + p.length ≤ Config.maxBytes ∧
      t = (s.takeIn p).respond .ok none) ∨
    (i = .finalize ∧ s.lifecycle ≠ .active ∧ t = s.raise .invalidState) ∨
    (i = .finalize ∧ s.lifecycle = .active ∧ t = s.close.respondDigest) ∨
    (∃ p, i = .digest p ∧ Config.maxBytes < p.length ∧ t = s.raise .lengthOverflow) ∨
    (∃ p, i = .digest p ∧ p.length ≤ Config.maxBytes ∧
      t = ((s.restart.absorbAll p).addTotal p.length).close.respondDigest) := by
  cases i with
  | create =>
    simp only [exec, execCreate, Host.Outcome.next.injEq] at h
    simp [h]
  | update p =>
    simp only [exec, execUpdate] at h
    split at h
    · next hl => simp only [Host.Outcome.next.injEq] at h; simp [hl, h]
    · next hl =>
      split at h
      · next hn => simp only [Host.Outcome.next.injEq] at h; simp_all
      · next hn => simp only [Host.Outcome.next.injEq] at h; simp_all
  | finalize =>
    simp only [exec, execFinalize] at h
    split at h
    · next hl => simp only [Host.Outcome.next.injEq] at h; simp [hl, h]
    · next hl => simp only [Host.Outcome.next.injEq] at h; simp_all
  | digest p =>
    simp only [exec, execDigest] at h
    split at h
    · next hn => simp only [Host.Outcome.next.injEq] at h; simp [hn, h]
    · next hn => simp only [Host.Outcome.next.injEq] at h; simp_all

/-- `exec` in the four situations in which a command has its own effect. -/
theorem execUpdate_active {s : State} {p : List Byte} (hl : s.lifecycle = .active)
    (hn : s.totalLen.toNat + p.length ≤ Config.maxBytes) :
    exec (.update p) s = .next ((s.takeIn p).respond .ok none) := by
  simp [exec, execUpdate, hl, Nat.not_lt.mpr hn]

theorem execFinalize_active {s : State} (hl : s.lifecycle = .active) :
    exec .finalize s = .next s.close.respondDigest := by
  simp [exec, execFinalize, hl]

theorem execDigest_short {s : State} {p : List Byte} (hn : p.length ≤ Config.maxBytes) :
    exec (.digest p) s =
      .next ((s.restart.absorbAll p).addTotal p.length).close.respondDigest := by
  simp [exec, execDigest, Nat.not_lt.mpr hn]

/-- Performing a command that decodes, and one that does not. -/
theorem perform_legal {c : Command} {i : Instr} (s : State) (h : decode c = .legal i) :
    perform c s = exec i s := by simp [perform, h]

theorem perform_illegal {c : Command} {w : Illegal} (s : State) (h : decode c = .illegal w) :
    perform c s = .next (s.raise .illegalCommand) := by simp [perform, h]

/-- Everything `perform` can answer. -/
theorem perform_cases {c : Command} {s t : State} (h : perform c s = .next t) :
    (∃ why, decode c = .illegal why ∧ t = s.raise .illegalCommand) ∨
    (∃ i, decode c = .legal i ∧ exec i s = .next t) := by
  unfold perform at h
  split at h
  · next i hi => exact .inr ⟨i, hi, h⟩
  · next why hw =>
    simp only [Host.Outcome.next.injEq] at h
    exact .inl ⟨why, hw, h.symm⟩

/-- `exec` has an answer for every command in every state. -/
theorem exec_answers (i : Instr) (s : State) : ∃ t, exec i s = .next t := by
  cases i with
  | create => exact ⟨_, rfl⟩
  | update p =>
    simp only [exec, execUpdate]
    split
    · exact ⟨_, rfl⟩
    · split <;> exact ⟨_, rfl⟩
  | finalize =>
    simp only [exec, execFinalize]
    split <;> exact ⟨_, rfl⟩
  | digest p =>
    simp only [exec, execDigest]
    split <;> exact ⟨_, rfl⟩

/-- Everything a step can be: a reset, the host's issuing a command, an idle step, or the outstanding command
performed, after a wait of the host if that is its next move. -/
theorem step_cases (s : State) :
    (∃ rest, s.host = .reset :: rest ∧ hostTurn s = .next (State.platformReset { s with host := rest })) ∨
    (∃ c rest, s.host = .issue c :: rest ∧ s.outstanding = none ∧
      hostTurn s = .next { s with outstanding := some c, host := rest }) ∨
    (∃ moves, (s.host = moves ∨ s.host = .wait :: moves) ∧ s.outstanding = none ∧ hostTurn s = .next { s with host := moves }) ∨
    (∃ c moves, (s.host = moves ∨ s.host = .wait :: moves) ∧ s.outstanding = some c ∧
      hostTurn s = perform c { s with host := moves }) := by
  unfold hostTurn
  split
  · next h =>
    have hs : { s with host := [] } = s := by rw [← h]
    rcases Option.eq_none_or_eq_some s.outstanding with ho | ⟨c, ho⟩
    · exact .inr (.inr (.inl ⟨[], .inl h, ho, by rw [hs]; simp [engineTurn, ho]⟩))
    · exact .inr (.inr (.inr ⟨c, [], .inl h, ho, by rw [hs]; simp [engineTurn, ho]⟩))
  · next rest h =>
    rcases Option.eq_none_or_eq_some s.outstanding with ho | ⟨c, ho⟩
    · exact .inr (.inr (.inl ⟨rest, .inr h, ho, by simp [engineTurn, ho]⟩))
    · exact .inr (.inr (.inr ⟨c, rest, .inr h, ho, by simp [engineTurn, ho]⟩))
  · next rest h => exact .inl ⟨rest, h, rfl⟩
  · next c rest h =>
    have hs : { s with host := .issue c :: rest } = s := by rw [← h]
    rcases Option.eq_none_or_eq_some s.outstanding with ho | ⟨d, ho⟩
    · exact .inr (.inl ⟨c, rest, h, ho, by simp [issueTurn, ho]⟩)
    · exact .inr (.inr (.inr ⟨d, .issue c :: rest, .inl h, ho, by rw [hs]; simp [issueTurn, engineTurn, ho]⟩))

end Sys2Proof.Machine
end

