-- ==== Sys2Proof/Laws/Padding.lean ====
section
/-! SUPPORT. Lengths of the byte sequences that padding and serialization build. -/

namespace Sys2Proof.Machine

@[simp] theorem toBigEndian_length {w : Nat} (n : Nat) (v : BitVec w) : (toBigEndian n v).length = n := by
  simp [toBigEndian]

@[simp] theorem toBe64_length (v : Word) : (toBe64 v).length = 8 := toBigEndian_length ..

@[simp] theorem toBe128_length (v : BitVec 128) : (toBe128 v).length = 16 := toBigEndian_length ..

/-- The most significant byte comes first, then the bytes of the rest. -/
theorem toBigEndian_succ {w : Nat} (n : Nat) (v : BitVec w) :
    toBigEndian (n + 1) v = v.extractLsb' (8 * n) 8 :: toBigEndian n v := by
  simp only [toBigEndian, List.range_succ_eq_map, List.map_cons, List.map_map]
  congr 1
  refine List.map_congr_left fun j hj => ?_
  simp only [List.mem_range] at hj
  simp only [Function.comp]
  congr 2
  omega

theorem zeroCount_lt (b : Nat) : zeroCount b < 128 := Nat.mod_lt _ (by omega)

theorem padTail_length_eq (t : List Byte) (total : BitVec 128) :
    (padTail t total).length = t.length + 1 + zeroCount t.length + 16 := by
  simp [padTail, lengthField]; omega

@[simp] theorem serialize_length (h : HashWords) : (serialize h).length = 64 := by
  simp [serialize, HashWords.toList]

end Sys2Proof.Machine
end

