-- ==== Sys2Proof/Laws/PerInstr.lean ====
section
/-! SUPPORT. Statements for all instructions, one lemma per constructor. -/

/-- The command that stands for an instruction passes every check of a legal command (30_encoding.md R60, R61, R65). -/
def Sys2Proof.Laws.EncodedIsWellFormed.Statement (i : Sys2Proof.Instr) : Prop :=
  (Sys2Proof.encode i).wf = true

namespace Sys2Proof.Laws.EncodedIsWellFormed

theorem create : Statement .create := by unfold Statement; decide

theorem update (p : List Sys2Proof.Byte) : Statement (.update p) := by
  simp [Statement, Command.wf, Command.reservedClear, Command.opcLegal, Command.payloadAllowed, Command.rsvd,
    Command.opc, encode, Instr.word]

theorem finalize : Statement .finalize := by unfold Statement; decide

theorem digest (p : List Sys2Proof.Byte) : Statement (.digest p) := by
  simp [Statement, Command.wf, Command.reservedClear, Command.opcLegal, Command.payloadAllowed, Command.rsvd,
    Command.opc, encode, Instr.word]

end Sys2Proof.Laws.EncodedIsWellFormed
end

