-- ==== Sys2Proof/Tests/Slice0.lean ====
section
/-! SUPPORT. Tests on fixed values, each with its source in the spec, and a witness for the hypotheses of every statement. -/

namespace Sys2Proof.Tests

open Sys2Proof.Machine

/-! ### Helpers -/

/-- A field of the next state, if there is one. -/
def look {α : Type} (o : Host.Outcome State Fault Refusal) (f : State → α) : Option α :=
  match o with
  | .next t => some (f t)
  | .fault _ => none
  | .refused _ => none

/-- "abc" (95_test_vectors.md section 3). -/
def abc : List Byte := [0x61, 0x62, 0x63]

/-- An ACTIVE engine with the IV in H and the given counts (95_test_vectors.md section 5). -/
def activeAt (n : BitVec 7) (total : BitVec 128) : State :=
  { State.reset with lifecycle := .active, hash := iv, bufLen := n, totalLen := total }

/-- "ctx": ACTIVE after `CREATE; UPDATE "abc"` (95_test_vectors.md section 5). -/
def ctx : State := State.reset.restart.takeIn abc

/-- A FINALIZED engine. -/
def finalized : State := { State.reset with lifecycle := .finalized, hash := iv }

/-- The newest response. -/
def newest (t : State) : Option Response := t.responses.head?

/-- The newest digest, as hex (30_encoding.md R69). -/
def newestHex (t : State) : Option (List Char) := (lastDigest t.responses).map renderHex

/-! ### WellFormed: an ill-formed command for each check, which the check refuses -/

theorem test_wf_reserved_bits : (Command.mk 0x00000012 []).reservedClear = false ∧ (Command.mk 0x00000012 []).wf = false := by
  decide

theorem test_wf_reserved_opcode : (Command.mk 0x00000005 []).opcLegal = false ∧ (Command.mk 0x00000005 []).wf = false := by
  decide

theorem test_wf_payload : (Command.mk 0x00000003 [0x00]).payloadAllowed = false ∧ (Command.mk 0x00000003 [0x00]).wf = false := by
  decide

/-! ### Decoding: words written out from 30_encoding.md section 2 (RSVD 28 bits, OPC 4 bits) -/

theorem test_decode_create : decode ⟨0b0000000000000000000000000000_0001, []⟩ = .legal .create := by decide

theorem test_decode_update : decode ⟨0b0000000000000000000000000000_0010, abc⟩ = .legal (.update abc) := by decide

theorem test_decode_finalize : decode ⟨0b0000000000000000000000000000_0011, []⟩ = .legal .finalize := by decide

theorem test_decode_digest : decode ⟨0b0000000000000000000000000000_0100, abc⟩ = .legal (.digest abc) := by decide

/-- CV5, CV15 to CV19 and CV20 (95_test_vectors.md section 5). -/
theorem test_decode_illegal :
    decode ⟨0x00000000, []⟩ = .illegal .reservedOpcode ∧ decode ⟨0x00000012, []⟩ = .illegal .reservedBits ∧
    decode ⟨0x00000003, [0x00]⟩ = .illegal .payloadNotEmpty ∧ decode ⟨0x00000001, [0x00]⟩ = .illegal .payloadNotEmpty ∧
    decode ⟨0x00000005, []⟩ = .illegal .reservedOpcode ∧ decode ⟨0x0000000f, []⟩ = .illegal .reservedOpcode ∧
    decode ⟨0x80000002, [0x78]⟩ = .illegal .reservedBits := by
  decide

/-- The table's words (spec/opcode_table.json) run as the first command after reset. -/
theorem test_table_words :
    (decodeTableWord 32 1, decodeTableWord 32 2, decodeTableWord 32 3, decodeTableWord 32 4, decodeTableWord 32 5) =
      (some .create, some (.update []), some .finalize, some (.digest []), none) ∧
    [1, 2, 3, 4].map (fun w => look (step (State.reset.withFetchWord 32 w)) fun t => (newest t).map Response.status) =
      [some (some 0x00000001), some (some 0x00010000), some (some 0x00010000), some (some 0x00000002)] := by
  decide +kernel

/-! ### The four commands (95_test_vectors.md section 5) -/

/-- CV1. -/
theorem test_create_from_reset :
    look (exec .create State.reset) (fun t => (newest t, t.hash, t.bufLen, t.totalLen, t.lifecycle)) =
      some (some ⟨0x00000001, none⟩, iv, 0, 0, .active) := by
  decide +kernel

/-- CV14: the message in progress is discarded. -/
theorem test_create_restarts :
    look (exec .create ctx) (fun t => (newest t, t.hash, t.bufLen, t.totalLen)) =
      some (some ⟨0x00000001, none⟩, iv, 0, 0) := by
  decide +kernel

/-- CV7: 125 more bytes complete one block, which is compressed and not held. -/
theorem test_update_completes_block :
    look (exec (.update (List.replicate 125 0x61)) ctx) (fun t => (newest t, t.bufLen, t.totalLen, t.hash)) =
      some (some ⟨0x00000001, none⟩, 0, 128, compress iv (abc ++ List.replicate 125 0x61)) := by
  decide +kernel

/-- CV21 and CV22: one byte too many, and the last that fits. -/
theorem test_update_length_limit :
    look (exec (.update [0, 1, 2]) (activeAt 125 (2 ^ 125 - 3))) (fun t => (newest t, t.bufLen, t.totalLen)) =
      some (some ⟨0x00037d01, none⟩, 125, 2 ^ 125 - 3) ∧
    look (exec (.update [0, 1]) (activeAt 125 (2 ^ 125 - 3))) (fun t => (newest t, t.bufLen, t.totalLen)) =
      some (some ⟨0x00007f01, none⟩, 127, 2 ^ 125 - 1) := by
  decide +kernel

/-- CV10, with V-COMP row 1 in H. -/
theorem test_finalize_abc :
    look (exec .finalize ctx) (fun t => (newestHex t, (newest t).map Response.status, t.lifecycle, t.hash.h0)) =
      some (some "ddaf35a193617abacc417349ae20413112e6fa4e89a97ea20a9eeee64b55d39a2192992a274fc1a836ba3c23a3feebbd454d4423643ce80e2a9ac94fa54ca49f".toList,
        some 0x00000002, .finalized, 0xddaf35a193617aba) := by
  decide +kernel

/-- CV11: a second FINALIZE is an error and keeps H. -/
theorem test_finalize_twice :
    look (exec .finalize finalized) (fun t => (newest t, t.lifecycle, t.hash)) =
      some (some ⟨0x00010002, none⟩, .finalized, iv) := by
  decide +kernel

/-- CV23: the empty message, from FINALIZED. -/
theorem test_digest_empty :
    look (exec (.digest []) finalized) newestHex =
      some (some "cf83e1357eefb8bdf1542850d66d8007d620e4050b5715dc83f4a921d36ce9ce47d0d13c5d85f2b0ff8318d2877eec2f63b931bd47417a81a538327af927da3e".toList) := by
  decide +kernel

/-- The 112-byte row of V-PAD-DIG: two padding blocks. -/
theorem test_digest_two_padding_blocks :
    look (exec (.digest (List.replicate 112 0x61)) State.reset) newestHex =
      some (some "c01d080efd492776a1c43bd23dd99d0a2e626d481e16782e75d54c2503b5dc32bd05f0f1ba33e568b88fd2d970929b719ecbb152f58f130a407c8830604b70ca".toList) := by
  decide +kernel

/-- CV20: ILLEGAL_COMMAND wins over INVALID_STATE, through `step`. -/
theorem test_illegal_command_wins :
    look (step { finalized with outstanding := some ⟨0x80000002, [0x78]⟩ }) (fun t => (newest t, t.lifecycle)) =
      some (some ⟨0x00020002, none⟩, .finalized) := by
  decide +kernel

/-! ### The functions (95_test_vectors.md sections 2 and 3) -/

/-- V-FUNC-1, last row. -/
theorem test_sigma_values :
    smallSigma0 0x0123456789abcdef = 0x6f92c77c6c4f1aa1 ∧ smallSigma1 0x0123456789abcdef = 0x70a3460dbbd4317a ∧
    bigSigma0 0x0123456789abcdef = 0xb7c57a100c7ec1ab ∧ bigSigma1 0x0123456789abcdef = 0x7703112333475567 := by
  decide +kernel

/-- V-SCHED-abc, entries 15, 17, 40 and 79. -/
theorem test_schedule_abc :
    [15, 17, 40, 79].map (fun t => (schedule (padTail abc 3)).getD t 0) =
      [0x0000000000000018, 0x00030000000000c0, 0x04e33a75ce2be88a, 0x92aeeed1a7bcf7d2] := by
  decide +kernel

/-- V-ROUND-abc, after round 79. -/
theorem test_rounds_abc :
    rounds (loadWorking iv) (schedule (padTail abc 3)) =
      ⟨0x73a54f399fa4b1b2, 0x10d9c4c4295599f6, 0xd67806db8b148677, 0x654ef9abec389ca9,
       0xd08446aa79693ed7, 0x9bb4d39778c07f9e, 0x25c96a7768fb2aa3, 0xceb9fc3691ce8326⟩ := by
  decide +kernel

/-- The length field of the longest message (95_test_vectors.md section 4). -/
theorem test_length_field_longest : lengthField 0x1fffffffffffffffffffffffffffffff = List.replicate 15 0xff ++ [0xf8] := by
  decide +kernel

/-- Lines of P1, P3 and CV20 (95_test_vectors.md sections 5 and 6). -/
theorem test_assembler_lines :
    program? ["CREATE ; H = IV".toList, "UPDATE rep(0x61, 100)".toList, "UPDATEN seq(4096), 256".toList,
        ".cmd 0x80000002, \"x\"".toList, "UPDATE x\"\"".toList, "FINALIZE".toList] =
      some [.create, .update (.rep 0x61 100), .updateN (.seq 4096) 256, .cmd 0x80000002 (.text ['x']),
        .update (.hex []), .finalize] := by
  decide +kernel

/-- Payload literals (30_encoding.md R71). -/
theorem test_payload_literals :
    (operand? "x\"00ff\" ++ rep(0x61, 2) ++ seq(3) ++ \"b\"".toList).map PayloadExpr.bytes =
      some [0x00, 0xff, 0x61, 0x61, 0, 1, 2, 0x62] ∧ operand? "x\"0\"".toList = none := by
  decide +kernel

/-! ### Witnesses: a state and operands that meet each statement's hypotheses -/

/-- LegalCommandWordsExactly: a payload that is not empty, and words next to the four. -/
theorem witness_illegal_words :
    abc ≠ [] ∧ ((0 : BitVec 32) ≠ 1 ∧ (0 : BitVec 32) ≠ 2 ∧ (0 : BitVec 32) ≠ 3 ∧ (0 : BitVec 32) ≠ 4) ∧
    ((5 : BitVec 32) ≠ 1 ∧ (5 : BitVec 32) ≠ 2 ∧ (5 : BitVec 32) ≠ 3 ∧ (5 : BitVec 32) ≠ 4) := by
  decide

/-- UpdateAbsorbsPayload, EmptyUpdateWritesNothing: the length bound met exactly. -/
theorem witness_update_active :
    (activeAt 125 (2 ^ 125 - 3)).lifecycle = .active ∧
    (activeAt 125 (2 ^ 125 - 3)).totalLen.toNat + [(0 : Byte), 1].length = 2 ^ 125 - 1 := by
  decide +kernel

/-- UpdateWithoutFullBlock: the last count that completes no block, and a byte on each side of BUF_LEN. -/
theorem witness_update_short :
    (activeAt 126 126).lifecycle = .active ∧ (activeAt 126 126).totalLen.toNat + [(7 : Byte)].length ≤ 2 ^ 125 - 1 ∧
    (activeAt 126 126).bufLen.toNat + [(7 : Byte)].length = 127 ∧ 125 < (activeAt 126 126).bufLen.toNat ∧
    0 < [(7 : Byte)].length := by
  decide +kernel

/-- UpdateOutsideActiveRaises, FinalizeOutsideActiveRaises: both STATEs outside ACTIVE. -/
theorem witness_outside_active : State.reset.lifecycle ≠ .active ∧ finalized.lifecycle ≠ .active := by
  decide +kernel

/-- UpdateOverflowRaises, LengthOverflowExactly: one byte past the bound. -/
theorem witness_overflow :
    (activeAt 127 (2 ^ 125 - 1)).lifecycle = .active ∧
    2 ^ 125 - 1 + 1 = (activeAt 127 (2 ^ 125 - 1)).totalLen.toNat + [(0 : Byte)].length := by
  decide +kernel

/-- SuccessfulUpdateCounts: a successful UPDATE with its response. -/
theorem witness_successful_update :
    look (exec (.update []) (activeAt 0 0)) (fun t => (t.responses.tail, (newest t).map Response.errField)) =
      some ((activeAt 0 0).responses, some 0) := by
  decide +kernel

/-- ChunkingInvariance, DigestEqualsStreaming, DigestReturnsPayloadDigest: chunks within the bound. -/
theorem witness_chunks :
    (activeAt 0 0).lifecycle = .active ∧ (activeAt 0 0).totalLen.toNat + [abc, [], abc].flatten.length ≤ 2 ^ 125 - 1 ∧
    [abc, [], abc].flatten.length ≤ 2 ^ 125 - 1 := by
  decide +kernel

/-- FinalizeReturnsDigest: one padding block at most 111 bytes, two from 112. -/
theorem witness_finalize_active : (activeAt 111 111).lifecycle = .active ∧ (activeAt 112 112).lifecycle = .active := by
  decide

/-- FinalizeReturnsMessageDigest, CommandsBuildMessage: the empty message after CREATE. -/
theorem witness_absorbed : State.reset.restart.Absorbed [] ∧ ([] : List Byte).length + abc.length ≤ 2 ^ 125 - 1 :=
  ⟨⟨rfl, by decide, rfl, rfl, rfl, rfl⟩, by decide⟩

/-- InvalidStateExactly, ErrorsChangeNothing, ErrorsAreNotSticky: an answer with its response, ERR 1. -/
theorem witness_error_response :
    exec .finalize State.reset = .next (State.reset.raise .invalidState) ∧
    perform ⟨3, []⟩ State.reset = .next (State.reset.raise .invalidState) ∧
    (State.reset.raise .invalidState).responses = [⟨0x00010000, none⟩] ∧
    (Response.mk 0x00010000 none).errField = 1 := by
  refine ⟨rfl, rfl, ?_, ?_⟩ <;> decide +kernel

/-- IllegalCommandRaises, FirstResponseAfterReset: each way to be malformed, outstanding and undisturbed. -/
theorem witness_malformed :
    Malformed ⟨0x00000010, []⟩ ∧ Malformed ⟨0x00000000, []⟩ ∧ Malformed ⟨0x0000000f, []⟩ ∧ Malformed ⟨0x00000001, [0]⟩ ∧
    ({ State.reset with outstanding := some ⟨0x00000010, []⟩ } : State).outstanding = some ⟨0x00000010, []⟩ ∧
    ({ State.reset with outstanding := some ⟨0x00000010, []⟩ } : State).undisturbed := by
  refine ⟨?_, ?_, ?_, ?_, rfl, fun rest h => by simp [State.reset] at h⟩ <;> decide

/-- FirstResponseAfterReset: an UPDATE, a FINALIZE and a CREATE with a payload, in UNINIT. -/
theorem witness_first_response :
    State.reset.lifecycle = .uninit ∧ ¬ Malformed ⟨2, abc⟩ ∧ ¬ Malformed ⟨3, []⟩ ∧
    ((2 : BitVec 32) ≠ 1 ∧ (2 : BitVec 32) ≠ 4) ∧ ((3 : BitVec 32) ≠ 1 ∧ (3 : BitVec 32) ≠ 4) ∧ abc ≠ [] := by
  decide

/-- ErrorPriority: every clause's command, well-formed, at its bound. -/
theorem witness_priority :
    ¬ Malformed ⟨1, []⟩ ∧ ¬ Malformed ⟨2, [0]⟩ ∧ ¬ Malformed ⟨3, []⟩ ∧ ¬ Malformed ⟨4, [0]⟩ ∧
    (activeAt 127 (2 ^ 125 - 1)).totalLen.toNat + [(0 : Byte)].length = 2 ^ 125 ∧
    (activeAt 126 (2 ^ 125 - 2)).totalLen.toNat + [(0 : Byte)].length = 2 ^ 125 - 1 := by
  decide +kernel

/-- LengthOverflowExactly and ErrorPriority: a payload past the bound exists. -/
theorem witness_long_payload : ∃ p : List Byte, 2 ^ 125 - 1 < p.length :=
  have longer (n : Nat) : ∃ p : List Byte, n < p.length := ⟨List.replicate (n + 1) 0, by simp⟩
  longer (2 ^ 125 - 1)

/-- OneResponsePerCommand, StepRunsDecodedCommand: a legal command outstanding. -/
theorem witness_legal_outstanding :
    (State.reset.withFetchWord 32 4).outstanding = some ⟨4, []⟩ ∧ decode ⟨4, []⟩ = .legal (.digest []) ∧
    (State.reset.withFetchWord 32 4).undisturbed := by
  refine ⟨by decide, by decide, fun rest h => ?_⟩
  simp [State.withFetchWord, State.reset, holdReset] at h

/-- DigestPresentExactly, StatusShowsState, LifecycleTransitions: an answer with its response. -/
theorem witness_create_response :
    perform ⟨1, []⟩ State.reset = .next (State.reset.restart.respond .ok none) ∧
    exec .create State.reset = .next (State.reset.restart.respond .ok none) ∧
    (State.reset.restart.respond .ok none).responses = [⟨0x00000001, none⟩] := by
  refine ⟨rfl, rfl, ?_⟩
  decide +kernel

/-- FinalizedChangesOnlyBy: FINALIZED is entered by a DIGEST and left by a CREATE and by a reset. -/
theorem witness_finalized_changes :
    look (step (State.reset.withFetchWord 32 4)) State.finalized = some true ∧ State.reset.finalized = false ∧
    look (step (finalized.withFetchWord 32 1)) State.finalized = some false ∧
    look (step { finalized with host := [.reset] }) State.finalized = some false ∧ finalized.finalized = true := by
  decide +kernel

/-- FinalWordsAreKept: a DIGEST in FINALIZED changes H. -/
theorem witness_final_words_change :
    (finalized.withFetchWord 32 4).lifecycle = .finalized ∧
    look (step (finalized.withFetchWord 32 4)) (fun t => decide (t.hash ≠ (finalized.withFetchWord 32 4).hash)) =
      some true := by
  decide +kernel

/-- StepKeepsInvariant: a state that meets the invariant, with a step. -/
theorem witness_invariant :
    State.reset.Inv ∧ step State.reset = .next State.reset :=
  ⟨⟨fun h => by simp [State.reset] at h, fun h => by simp [State.reset] at h, fun r h => by simp [State.reset] at h⟩, rfl⟩

/-- StepKeepsInvariant: an ACTIVE state that meets it. -/
theorem witness_invariant_active : State.reset.restart.Inv :=
  ⟨fun _ => ⟨[], witness_absorbed.1⟩, fun h => by simp [State.restart] at h, fun r h => by simp [State.restart, State.reset] at h⟩

/-- ResetGivesUninit: a reset while a command is outstanding. -/
theorem witness_reset_move :
    look (step { ctx with outstanding := some ⟨3, []⟩, host := [.reset, .wait] })
      (fun t => (t.lifecycle, t.outstanding, t.responses, t.host)) = some (.uninit, none, [], [.wait]) := by
  decide +kernel

/-- StepHidesUnreadRegisters, ResetRegistersUnobservable: two UNINIT states that differ in the registers no rule reads. -/
theorem witness_unread_registers :
    ObsEq State.reset { State.reset with hash := iv, bufLen := 5, totalLen := 7, draws := 9 } ∧
    State.reset ≠ { State.reset with hash := iv, bufLen := 5, totalLen := 7, draws := 9 } :=
  ⟨⟨rfl, rfl, rfl, rfl, fun h => by simp [State.reset] at h⟩, fun h => by simp [State.reset] at h⟩

/-- HostIssuesOneCommandAtATime: the host's command accepted, and held back while one is outstanding. -/
theorem witness_host_issues :
    look (step { State.reset with host := [.issue ⟨1, []⟩] }) (fun t => (t.outstanding, t.host)) =
      some (some ⟨1, []⟩, []) ∧
    look (step { State.reset with host := [.issue ⟨1, []⟩], outstanding := some ⟨3, []⟩ })
      (fun t => (t.outstanding, t.host)) = some (none, [.issue ⟨1, []⟩]) := by
  decide +kernel

/-- IdleEngineKeepsState: nothing outstanding, with no host move and with a wait. -/
theorem witness_idle :
    State.reset.outstanding = none ∧ State.reset.host = [] ∧
    ({ State.reset with host := [.wait, .reset] } : State).host = .wait :: [.reset] := by
  decide

/-- PadTailShape, LengthFieldExact, ShiftAndRotateBits, SerializeBytes, ScheduleRecurrence, BigEndianWords and
DigestRendering: values at the bounds of their hypotheses. -/
theorem witness_function_bounds :
    (List.replicate 127 (0 : Byte)).length ≤ 127 ∧ (2 ^ 125 - 1 : BitVec 128).toNat ≤ 2 ^ 125 - 1 ∧
    (0 < 1 ∧ 1 < 64 ∧ 63 < 64) ∧ (7 < 8 ∧ iv.toList[7]? = some 0x5be0cd19137e2179) ∧ (16 ≤ 79 ∧ 79 < 80) ∧
    (toBe64 0).length = 8 ∧ (serialize iv)[63]? = some 0x79 := by
  decide +kernel

/-- InstancesShareNothing: a platform of two engines and steps of both, in either order. -/
theorem witness_platform :
    Platform.stepAt [State.reset, ctx] 0 = .next [State.reset, ctx] ∧
    Platform.stepAt [State.reset, ctx] 1 = .next [State.reset, ctx] ∧ (0 : Nat) ≠ 1 :=
  ⟨rfl, rfl, by decide⟩

end Sys2Proof.Tests
end

section
/-! PROOFS. What every command's answer and every step do to STATE and STATUS, and with it the statements of 10_state.md
on the STATUS word (R31, R33) and on `finalized` (R25). -/

namespace Sys2Proof.Machine

/-! ### STATUS: every answer is an error raised on the state as found, or a response of success -/

/-- A legal command either raises an error or ends in a response of success, added to the responses given
before it. -/
theorem exec_raises_or_responds {i : Instr} {s t : State} (h : exec i s = .next t) :
    (∃ e, t = s.raise e) ∨ ∃ (u : State) (d : Option (List Byte)), u.responses = s.responses ∧ t = u.respond .ok d := by
  rcases exec_cases h with ⟨-, ht⟩ | ⟨_, -, -, ht⟩ | ⟨_, -, -, -, ht⟩ | ⟨p, -, -, -, ht⟩ | ⟨-, -, ht⟩ |
      ⟨-, -, ht⟩ | ⟨_, -, -, ht⟩ | ⟨p, -, -, ht⟩
  · exact .inr ⟨_, _, s.restart_responses, ht⟩
  · exact .inl ⟨_, ht⟩
  · exact .inl ⟨_, ht⟩
  · obtain ⟨-, -, -, hr⟩ := s.takeIn_frame p
    exact .inr ⟨_, _, hr, ht⟩
  · exact .inl ⟨_, ht⟩
  · exact .inr ⟨_, _, s.close_responses, ht⟩
  · exact .inl ⟨_, ht⟩
  · obtain ⟨-, -, -, -, hr, -⟩ := s.restart.absorbAll_frame p
    refine .inr ⟨_, _, ?_, ht⟩
    exact hr

/-- The same of every outstanding command, one that does not decode included (60_exceptions.md R118, R122). -/
theorem perform_raises_or_responds {c : Command} {s t : State} (h : perform c s = .next t) :
    (∃ e, t = s.raise e) ∨ ∃ (u : State) (d : Option (List Byte)), u.responses = s.responses ∧ t = u.respond .ok d := by
  rcases perform_cases h with ⟨_, -, ht⟩ | ⟨_, -, hx⟩
  · exact .inl ⟨_, ht⟩
  · exact exec_raises_or_responds hx

/-- The newest response carries the STATUS word of the state it leaves; when its ERR is not 0 that state shows STATE and
BUF_LEN as the command found them (10_state.md R31, R32). -/
theorem perform_status {c : Command} {s t : State} {r : Response} (h : perform c s = .next t)
    (hr : t.responses = r :: s.responses) :
    ∃ e, r.status = statusWord t.lifecycle t.bufLen e ∧
      (e ≠ .ok → t.lifecycle = s.lifecycle ∧ t.bufLen = s.bufLen) := by
  rcases perform_raises_or_responds h with ⟨e, rfl⟩ | ⟨u, d, -, rfl⟩
  · rw [State.raise_responses, List.cons.injEq] at hr
    exact ⟨e, by simp [← hr.1, State.statusNow], fun _ => ⟨rfl, rfl⟩⟩
  · rw [State.respond_responses, List.cons.injEq] at hr
    exact ⟨.ok, by simp [← hr.1, State.statusNow], fun hok => absurd rfl hok⟩

theorem ErrCode.code_le_three (e : ErrCode) : e.code.toNat ≤ 3 := by
  cases e <;> decide

/-! ### `finalized`: the commands and the steps that change STATE -/

/-- STATE is kept, set to ACTIVE by CREATE, or set to FINALIZED by a FINALIZE or DIGEST that answers ERR 0
(40_streaming.md R75). -/
theorem exec_lifecycle_cases {i : Instr} {s t : State} (h : exec i s = .next t) :
    t.lifecycle = s.lifecycle ∨
    (i = .create ∧ t.lifecycle = .active) ∨
    ((i = .finalize ∨ ∃ p, i = .digest p) ∧ t.lifecycle = .finalized ∧
      ∃ r, t.responses = r :: s.responses ∧ r.errField = 0) := by
  rcases exec_cases h with ⟨hi, ht⟩ | ⟨_, -, -, ht⟩ | ⟨_, -, -, -, ht⟩ | ⟨p, -, -, -, ht⟩ | ⟨-, -, ht⟩ |
      ⟨hi, -, ht⟩ | ⟨_, -, -, ht⟩ | ⟨p, hi, -, ht⟩ <;> subst ht
  · exact .inr (.inl ⟨hi, rfl⟩)
  · exact .inl rfl
  · exact .inl rfl
  · exact .inl (s.takeIn_frame p).1
  · exact .inl rfl
  · exact .inr (.inr ⟨.inl hi, rfl, _, rfl, errField_mk ..⟩)
  · exact .inl rfl
  · obtain ⟨-, -, -, -, hr, -⟩ := s.restart.absorbAll_frame p
    exact .inr (.inr ⟨.inr ⟨p, hi⟩, rfl, _, congrArg _ hr, errField_mk ..⟩)

/-- A step keeps STATE, resets the engine, or performs an outstanding legal command, with some of the host's moves
used up. -/
theorem step_lifecycle_cases {s t : State} (h : step s = .next t) :
    t.lifecycle = s.lifecycle ∨
    ((∃ rest, s.host = .reset :: rest) ∧ t.lifecycle = .uninit) ∨
    ∃ c i moves, s.outstanding = some c ∧ decode c = .legal i ∧ exec i { s with host := moves } = .next t := by
  rw [step] at h
  rcases step_cases s with ⟨rest, hh, hs⟩ | ⟨c, rest, -, -, hs⟩ | ⟨moves, -, -, hs⟩ | ⟨c, moves, -, ho, hs⟩ <;>
    rw [hs] at h
  · obtain rfl := Host.Outcome.next.inj h
    exact .inr (.inl ⟨⟨rest, hh⟩, rfl⟩)
  · obtain rfl := Host.Outcome.next.inj h
    exact .inl rfl
  · obtain rfl := Host.Outcome.next.inj h
    exact .inl rfl
  · rcases perform_cases h with ⟨_, -, rfl⟩ | ⟨i, hd, hx⟩
    · exact .inl rfl
    · exact .inr (.inr ⟨c, i, moves, ho, hd, hx⟩)

theorem State.finalized_iff (s : State) : s.finalized = true ↔ s.lifecycle = .finalized := by
  simp [State.finalized]

theorem State.finalized_eq_false_iff (s : State) : s.finalized = false ↔ s.lifecycle ≠ .finalized := by
  simp [State.finalized]

/-- A step enters FINALIZED only by performing a FINALIZE or DIGEST that answers ERR 0. -/
theorem step_enters_finalized {s t : State} (h : step s = .next t) (hs : s.lifecycle ≠ .finalized)
    (ht : t.lifecycle = .finalized) :
    ∃ c r, s.outstanding = some c ∧ (decode c = .legal .finalize ∨ ∃ p, decode c = .legal (.digest p)) ∧
      t.responses = r :: s.responses ∧ r.errField = 0 := by
  rcases step_lifecycle_cases h with hl | ⟨-, hl⟩ | ⟨c, i, moves, ho, hd, hx⟩
  · exact absurd (hl.symm.trans ht) hs
  · simp [hl] at ht
  · rcases exec_lifecycle_cases hx with hl | ⟨-, hl⟩ | ⟨hi, -, r, hr, he⟩
    · exact absurd (hl.symm.trans ht) hs
    · simp [hl] at ht
    · refine ⟨c, r, ho, ?_, hr, he⟩
      rcases hi with rfl | ⟨p, rfl⟩
      · exact .inl hd
      · exact .inr ⟨p, hd⟩

/-- A step leaves FINALIZED only by a reset or by performing a CREATE. -/
theorem step_leaves_finalized {s t : State} (h : step s = .next t) (hs : s.lifecycle = .finalized)
    (ht : t.lifecycle ≠ .finalized) :
    (∃ rest, s.host = .reset :: rest) ∨ ∃ c, s.outstanding = some c ∧ decode c = .legal .create := by
  rcases step_lifecycle_cases h with hl | ⟨hh, -⟩ | ⟨c, i, moves, ho, hd, hx⟩
  · exact absurd (hl.trans hs) ht
  · exact .inl hh
  · rcases exec_lifecycle_cases hx with hl | ⟨rfl, -⟩ | ⟨-, hl, -⟩
    · exact absurd (hl.trans hs) ht
    · exact .inr ⟨c, ho, hd⟩
    · exact absurd hl ht

/-- The STATUS of INVALID_STATE in FINALIZED, whatever BUF_LEN holds. -/
theorem statusWord_finalized_invalidState (n : BitVec 7) :
    statusWord .finalized n .invalidState = 0x00010002 := by
  rw [statusWord, shownLen_finalized]
  decide

theorem execUpdate_outside_active {s : State} (p : List Byte) (hl : s.lifecycle ≠ .active) :
    exec (.update p) s = .next (s.raise .invalidState) := by
  simp [exec, execUpdate, hl]

/-- An UPDATE in FINALIZED answers INVALID_STATE (10_state.md R25; 40_streaming.md R79). -/
theorem execUpdate_finalized_responses {s t : State} {p : List Byte} (h : exec (.update p) s = .next t)
    (hs : s.lifecycle = .finalized) : t.responses = ⟨0x00010002, none⟩ :: s.responses := by
  rw [execUpdate_outside_active p (by simp [hs])] at h
  obtain rfl := Host.Outcome.next.inj h
  rw [State.raise_responses, State.statusNow, hs, statusWord_finalized_invalidState]

/-! ### The statements -/

/-- Settles O27: every response's STATUS is the word of the state the command leaves, read back field by field. -/
theorem statusShowsState : Obligations.StatusShowsState := by
  intro s t c r h hr
  obtain ⟨e, hw, herr⟩ := perform_status h hr
  obtain ⟨hstate, hlow, hlen, hmid, hcode, hhigh⟩ := statusWord_fields t.lifecycle t.bufLen e
  rw [← hw] at hstate hlow hlen hmid hcode hhigh
  have herrField : r.errField = e.code := hcode
  refine ⟨hstate, hlen, fun hne => herr ?_, hlow, hmid, hhigh, ?_⟩
  · rwa [herrField, ne_eq, ErrCode.code_eq_zero] at hne
  · rw [herrField]
    exact e.code_le_three

/-- Settles O29: STATE is kept by every step other than a reset, a CREATE and a successful FINALIZE or DIGEST. -/
theorem finalizedChangesOnlyBy : Obligations.FinalizedChangesOnlyBy := by
  refine ⟨State.finalized_iff, fun s t h hs ht => ?_, fun s t h hs ht => ?_, fun s t p h hs => ?_⟩
  · exact step_enters_finalized h (s.finalized_eq_false_iff.mp hs) (t.finalized_iff.mp ht)
  · exact step_leaves_finalized h (s.finalized_iff.mp hs) (t.finalized_eq_false_iff.mp ht)
  · exact execUpdate_finalized_responses h (s.finalized_iff.mp hs)

end Sys2Proof.Machine
end

section
/-! PROOFS. The legal command words (30_encoding.md R63), the response every command returns and its digest (R67, R68),
the hex rendering of a digest (R69) and the pseudo-instruction UPDATEN (R72). -/

namespace Sys2Proof

/-! ### The command words -/

/-- A word other than the four of 30_encoding.md R63 decodes to no command, whatever its payload. -/
theorem decode_other_word {w : BitVec 32} (p : List Byte) (h1 : w ≠ 1) (h2 : w ≠ 2) (h3 : w ≠ 3) (h4 : w ≠ 4) :
    ∃ why, decode ⟨w, p⟩ = .illegal why := by
  simp only [decode_by_word, h1, h2, h3, h4, if_false]
  split
  · exact ⟨_, rfl⟩
  · exact ⟨_, rfl⟩

/-- The commands that return a digest when they succeed (30_encoding.md R68). -/
def Instr.returnsDigest : Instr → Bool
  | .create => false
  | .update _ => false
  | .finalize => true
  | .digest _ => true

theorem Instr.returnsDigest_iff (i : Instr) : i.returnsDigest = true ↔ i = .finalize ∨ ∃ p, i = .digest p := by
  cases i <;> simp [Instr.returnsDigest]

namespace Machine

/-! ### The digest of a response -/

/-- A legal command's response carries H serialized, as the command leaves it, when the command is FINALIZE or DIGEST
and ERR is 0, and no digest otherwise. -/
theorem exec_digest {i : Instr} {s t : State} {r : Response} (h : exec i s = .next t)
    (hr : t.responses = r :: s.responses) :
    r.digest = if i.returnsDigest = true ∧ r.errField = 0 then some (serialize t.hash) else none := by
  rcases exec_cases h with ⟨rfl, rfl⟩ | ⟨_, rfl, -, rfl⟩ | ⟨_, rfl, -, -, rfl⟩ | ⟨_, rfl, -, -, rfl⟩ |
      ⟨rfl, -, rfl⟩ | ⟨rfl, -, rfl⟩ | ⟨_, rfl, -, rfl⟩ | ⟨_, rfl, -, rfl⟩ <;>
    obtain ⟨rfl, -⟩ := List.cons.inj hr <;>
    simp [Instr.returnsDigest, State.statusNow, ErrCode.code]

/-- A command that does not decode answers without a digest. -/
theorem perform_illegal_digest {c : Command} {s t : State} {r : Response} {why : Illegal}
    (hd : decode c = .illegal why) (h : perform c s = .next t) (hr : t.responses = r :: s.responses) :
    r.digest = none := by
  rw [perform_illegal s hd] at h
  obtain rfl := Host.Outcome.next.inj h
  obtain ⟨rfl, -⟩ := List.cons.inj hr
  rfl

/-- A response's digest is absent or has 64 bytes. -/
theorem perform_digest_length {c : Command} {s t : State} {r : Response} (h : perform c s = .next t)
    (hr : t.responses = r :: s.responses) :
    r.digest = none ∨ ∃ d, r.digest = some d ∧ d.length = 64 := by
  rcases perform_cases h with ⟨_, hd, -⟩ | ⟨i, -, hx⟩
  · exact .inl (perform_illegal_digest hd h hr)
  · rw [exec_digest hx hr]
    split
    · exact .inr ⟨_, rfl, serialize_length _⟩
    · exact .inl rfl

/-! ### One response for each command -/

/-- `perform` has an answer for every command in every state. -/
theorem perform_answers (c : Command) (s : State) : ∃ t, perform c s = .next t := by
  unfold perform
  split
  · exact exec_answers _ _
  · exact ⟨_, rfl⟩

/-- An answered command is no longer outstanding, and exactly one response has been added. -/
theorem perform_one_response {c : Command} {s t : State} (h : perform c s = .next t) :
    t.outstanding = none ∧ ∃ r, t.responses = r :: s.responses := by
  rcases perform_raises_or_responds h with ⟨e, rfl⟩ | ⟨u, d, hu, rfl⟩
  · exact ⟨rfl, _, rfl⟩
  · exact ⟨rfl, _, by rw [State.respond_responses, hu]⟩

/-- With a command outstanding and no reset next, the step performs the command; the host's wait, if that is its next
move, is used up. -/
theorem step_performs {s : State} {c : Command} (ho : s.outstanding = some c) (hu : s.undisturbed) :
    step s = perform c s.afterTurn := by
  unfold step hostTurn State.afterTurn
  split
  · next hh => simp [hh, engineTurn, ho]
  · next hh => simp [hh, engineTurn, ho]
  · next rest hh => exact absurd hh (hu rest)
  · next hh => simp [hh, issueTurn, engineTurn, ho]

@[simp] theorem State.afterTurn_responses (s : State) : s.afterTurn.responses = s.responses := by
  unfold State.afterTurn
  split <;> rfl

/-! ### Assembler lines and hex digits -/

theorem assemble_append (a b : List Line) : assemble (a ++ b) = assemble a ++ assemble b :=
  List.flatMap_append

theorem assemble_cons (l : Line) (ls : List Line) : assemble (l :: ls) = l.commands ++ assemble ls :=
  List.flatMap_cons

/-- An UPDATEN line stands for the commands of `count` UPDATE lines. -/
theorem Line.updateN_commands (p : PayloadExpr) (count : Nat) :
    (Line.updateN p count).commands = assemble (List.replicate count (.update p)) := by
  induction count with
  | zero => rfl
  | succ n ih =>
    rw [List.replicate_succ, assemble_cons, ← ih]
    rfl

/-- The rendering of a nibble is the digit at its place among the lowercase hex digits. -/
theorem hexDigits_getElem? {n : Nat} (h : n < 16) : "0123456789abcdef".toList[n]? = some (hexChar n) := by
  revert n
  decide

theorem renderHex_cons (b : Byte) (bs : List Byte) :
    renderHex (b :: bs) = hexChar (b.toNat / 16) :: hexChar (b.toNat % 16) :: renderHex bs := rfl

theorem renderHex_length (bs : List Byte) : (renderHex bs).length = 2 * bs.length := by
  induction bs with
  | nil => rfl
  | cons b bs ih =>
    simp only [renderHex_cons, List.length_cons, ih]
    omega

/-- The two digits of byte `i` stand at places `2 i`, high nibble, and `2 i + 1`, low nibble. -/
theorem renderHex_getElem? {bs : List Byte} {i : Nat} {b : Byte} (h : bs[i]? = some b) :
    (renderHex bs)[2 * i]? = some (hexChar (b.toNat / 16)) ∧
    (renderHex bs)[2 * i + 1]? = some (hexChar (b.toNat % 16)) := by
  induction bs generalizing i with
  | nil => simp at h
  | cons b' bs ih =>
    rw [renderHex_cons]
    cases i with
    | zero =>
      obtain rfl : b' = b := by simpa using h
      exact ⟨rfl, rfl⟩
    | succ i => exact ih (by simpa using h)

/-! ### The statements -/

/-- Settles O2: `decode` read through the whole command word. -/
theorem legalCommandWordsExactly : Obligations.LegalCommandWordsExactly := by
  refine ⟨rfl, fun p => ?_, rfl, fun p => ?_, fun p hp => ⟨?_, ?_⟩, fun w p => decode_other_word p⟩
  · simp [decode_by_word]
  · simp [decode_by_word]
  · simp [decode_by_word, hp]
  · simp [decode_by_word, hp]

/-- Settles O25: the step performs the command, and every performed command adds one response with the STATUS of the
state it leaves. -/
theorem oneResponsePerCommand : Obligations.OneResponsePerCommand := by
  intro s c ho hu
  obtain ⟨t, ht⟩ := perform_answers c s.afterTurn
  obtain ⟨hout, r, hr⟩ := perform_one_response ht
  obtain ⟨e, hstatus, -⟩ := perform_status ht hr
  have hstep : step s = .next t := (step_performs ho hu).trans ht
  exact ⟨t, r, e, hstep, by rw [hr, s.afterTurn_responses], hout, hstatus, perform_digest_length ht hr⟩

/-- Settles O26: a malformed command returns no digest, and a legal one as its kind and its ERR say. -/
theorem digestPresentExactly : Obligations.DigestPresentExactly := by
  intro s t c r h hr
  rcases perform_cases h with ⟨why, hd, -⟩ | ⟨i, hd, hx⟩
  · simp [perform_illegal_digest hd h hr, hd]
  · simp [exec_digest hx hr, hd, ← Instr.returnsDigest_iff]

/-- Settles O55: UPDATEN and its expansion assemble to the same commands, between any lines. -/
theorem updateNExpands : Obligations.UpdateNExpands := by
  intro p count before after
  simp only [assemble_append, assemble_cons, Line.updateN_commands, List.append_assoc]

/-- Settles O56: two digits for each of the 64 bytes, each the digit of its nibble. -/
theorem digestRendering : Obligations.DigestRendering := by
  intro h
  refine ⟨by rw [renderHex_length, serialize_length], fun i b hb => ?_⟩
  obtain ⟨hhigh, hlow⟩ := renderHex_getElem? hb
  have hlt := b.isLt
  rw [hexDigits_getElem? (by omega), hexDigits_getElem? (by omega)]
  exact ⟨hhigh, hlow⟩

end Machine

end Sys2Proof
end

section
/-! PROOFS. The errors of UPDATE and FINALIZE (40_streaming.md R79, R80, R86), the byte count of a successful UPDATE
(R82) and the initial hash value that CREATE loads (R76). -/

namespace Sys2Proof.Machine

/-! ### What a raised error keeps and answers -/

/-- Raising an error writes no register (60_exceptions.md R122). -/
theorem State.raise_sameRegisters (s : State) (e : ErrCode) : SameRegisters s (s.raise e) :=
  ⟨rfl, rfl, rfl, rfl, rfl, rfl⟩

/-- The response of a raised error carries that error's code. -/
theorem State.raise_errField {s : State} {e : ErrCode} {r : Response}
    (hr : (s.raise e).responses = r :: s.responses) : r.errField = e.code := by
  obtain ⟨rfl, -⟩ := List.cons.inj hr
  exact errField_mk ..

/-- The STATUS of INVALID_STATE in UNINIT, whatever BUF_LEN holds. -/
theorem statusWord_uninit_invalidState (n : BitVec 7) : statusWord .uninit n .invalidState = 0x00010000 := by
  rw [statusWord, shownLen_uninit]
  decide

/-- The STATUS of INVALID_STATE in both STATEs in which it is raised. -/
theorem State.statusNow_invalidState {s : State} (hl : s.lifecycle ≠ .active) :
    s.statusNow .invalidState = if s.lifecycle = .finalized then 0x00010002 else 0x00010000 := by
  rw [State.statusNow]
  cases h : s.lifecycle with
  | uninit => exact statusWord_uninit_invalidState _
  | active => exact absurd h hl
  | finalized => exact statusWord_finalized_invalidState _

/-! ### UPDATE and FINALIZE where they raise, and the byte count -/

theorem execUpdate_overflow {s : State} {p : List Byte} (hl : s.lifecycle = .active)
    (hn : Config.maxBytes < s.totalLen.toNat + p.length) :
    exec (.update p) s = .next (s.raise .lengthOverflow) := by
  simp [exec, execUpdate, hl, hn]

theorem execFinalize_outside_active {s : State} (hl : s.lifecycle ≠ .active) :
    exec .finalize s = .next (s.raise .invalidState) := by
  simp [exec, execFinalize, hl]

/-- Within `MAX_BYTES` the byte count does not wrap (40_streaming.md R82). -/
theorem State.takeIn_totalLen_toNat {s : State} {p : List Byte}
    (hn : s.totalLen.toNat + p.length ≤ Config.maxBytes) :
    (s.takeIn p).totalLen.toNat = s.totalLen.toNat + p.length := by
  obtain ⟨-, -, -, htotal⟩ := s.takeIn_spec p
  have hlt : Config.maxBytes < 2 ^ 128 := by decide
  rw [htotal, BitVec.toNat_ofNat, Nat.mod_eq_of_lt (by omega)]

/-- An UPDATE that answers ERR 0 is one in ACTIVE and within `MAX_BYTES`, its payload taken in. -/
theorem execUpdate_ok {s t : State} {p : List Byte} {r : Response} (h : exec (.update p) s = .next t)
    (hr : t.responses = r :: s.responses) (he : r.errField = 0) :
    s.totalLen.toNat + p.length ≤ Config.maxBytes ∧ t = (s.takeIn p).respond .ok none := by
  by_cases hl : s.lifecycle = .active
  · by_cases hn : s.totalLen.toNat + p.length ≤ Config.maxBytes
    · rw [execUpdate_active hl hn] at h
      exact ⟨hn, (Host.Outcome.next.inj h).symm⟩
    · rw [execUpdate_overflow hl (by omega)] at h
      obtain rfl := Host.Outcome.next.inj h
      exact absurd ((State.raise_errField hr).symm.trans he) (by decide)
  · rw [execUpdate_outside_active p hl] at h
    obtain rfl := Host.Outcome.next.inj h
    exact absurd ((State.raise_errField hr).symm.trans he) (by decide)

/-! ### The initial hash value -/

/-- Each IV word below the whole part of its prime's square root, in order 1, 1, 2, 2, 3, 3, 4, 4, is the integer square
root of `p * 2^128` (40_streaming.md R76). -/
theorem iv_brackets_square_roots :
    ∀ x ∈ iv.toList.zip [2, 3, 5, 7, 11, 13, 17, 19], ∃ q < 32,
      (q * 2 ^ 64 + x.1.toNat) ^ 2 ≤ x.2 * 2 ^ 128 ∧ x.2 * 2 ^ 128 < (q * 2 ^ 64 + x.1.toNat + 1) ^ 2 := by
  simp only [HashWords.toList, List.zip_cons_cons, List.forall_mem_cons]
  exact ⟨⟨1, by decide⟩, ⟨1, by decide⟩, ⟨2, by decide⟩, ⟨2, by decide⟩, ⟨3, by decide⟩, ⟨3, by decide⟩,
    ⟨4, by decide⟩, ⟨4, by decide⟩, by simp⟩

/-! ### The statements -/

/-- Settles O10: ERR 0 leaves only the case within `MAX_BYTES`, where the count does not wrap. -/
theorem successfulUpdateCounts : Obligations.SuccessfulUpdateCounts := by
  intro s t p r h hr he
  obtain ⟨hn, rfl⟩ := execUpdate_ok h hr he
  exact State.takeIn_totalLen_toNat hn

/-- Settles O8: UPDATE outside ACTIVE is a raised INVALID_STATE. -/
theorem updateOutsideActiveRaises : Obligations.UpdateOutsideActiveRaises := by
  intro s p hl
  refine ⟨_, execUpdate_outside_active p hl, s.raise_sameRegisters _, rfl, rfl, ?_⟩
  rw [State.raise_responses, State.statusNow_invalidState hl]

/-- Settles O9: UPDATE past the bound is a raised LENGTH_OVERFLOW. -/
theorem updateOverflowRaises : Obligations.UpdateOverflowRaises := by
  intro s p hl hn
  exact ⟨_, _, execUpdate_overflow hl hn, s.raise_sameRegisters _, rfl, rfl, s.raise_responses _,
    State.raise_errField (s.raise_responses _), rfl⟩

/-- Settles O14: FINALIZE outside ACTIVE is a raised INVALID_STATE. -/
theorem finalizeOutsideActiveRaises : Obligations.FinalizeOutsideActiveRaises := by
  intro s hl
  refine ⟨_, execFinalize_outside_active hl, s.raise_sameRegisters _, rfl, rfl, ?_⟩
  rw [State.raise_responses, State.statusNow_invalidState hl]

/-- Settles O50: the eight words bracketed by squares, and CREATE writing them into H. -/
theorem initialHashFromSquareRoots : Obligations.InitialHashFromSquareRoots :=
  ⟨rfl, iv_brackets_square_roots, fun s => ⟨_, rfl, s.restart_hash⟩⟩

end Sys2Proof.Machine
end

section
/-! PROOFS. The padded tail (41_padding.md R93) and the bytes of the digest (R97). -/

namespace Sys2Proof.Machine

/-! ### The count of zero bytes -/

/-- Up to 111 buffered bytes the zero bytes fill the tail's first block; from 112 they fill its second
(41_padding.md R91). -/
theorem zeroCount_eq {b : Nat} (hb : b ≤ 127) : zeroCount b = if b ≤ 111 then 111 - b else 239 - b := by
  rw [zeroCount]
  split <;> omega

theorem zeroCount_mod {b : Nat} (hb : b ≤ 127) : (b + 1 + zeroCount b) % 128 = 112 := by
  rw [zeroCount_eq hb]
  split <;> omega

/-- No smaller count brings the length to 112 modulo 128 (41_padding.md R91). -/
theorem zeroCount_le {b j : Nat} (hb : b ≤ 127) (hj : (b + 1 + j) % 128 = 112) : zeroCount b ≤ j := by
  rw [zeroCount_eq hb]
  split <;> omega

theorem padTail_length {t : List Byte} (total : BitVec 128) (ht : t.length ≤ 127) :
    (padTail t total).length = if t.length ≤ 111 then 128 else 256 := by
  rw [padTail_length_eq, zeroCount_eq ht]
  split <;> omega

/-! ### The bytes of a serialized word file -/

theorem toBe64_getElem? (w : Word) {j : Nat} (hj : j < 8) :
    (toBe64 w)[j]? = some (w.extractLsb' (56 - 8 * j) 8) := by
  rw [toBe64, toBigEndian, List.getElem?_map, List.getElem?_range hj, Option.map_some]
  congr 2
  omega

/-- Each word of a sequence takes 8 places, so the bytes of word `i` stand from place `8 i` on. -/
theorem flatMap_toBe64_getElem? {ws : List Word} {i j : Nat} {w : Word} (hi : ws[i]? = some w) (hj : j < 8) :
    (ws.flatMap toBe64)[8 * i + j]? = (toBe64 w)[j]? := by
  induction ws generalizing i with
  | nil => simp at hi
  | cons w' ws ih =>
    rw [List.flatMap_cons]
    cases i with
    | zero =>
      obtain rfl : w' = w := by simpa using hi
      rw [List.getElem?_append_left (by simpa using hj), Nat.mul_zero, Nat.zero_add]
    | succ i =>
      have hplace : 8 * (i + 1) + j - (toBe64 w').length = 8 * i + j := by rw [toBe64_length]; omega
      rw [List.getElem?_append_right (by rw [toBe64_length]; omega), hplace]
      exact ih (by simpa using hi)

/-! ### The statements -/

/-- Settles O41: the count of zero bytes is the model's `zeroCount`, and the tail of "abc" is computed. -/
theorem padTailShape : Obligations.PadTailShape := by
  refine ⟨fun t total ht => ?_, by decide⟩
  exact ⟨zeroCount t.length, zeroCount_mod ht, fun _ hj => zeroCount_le ht hj, rfl, padTail_length_eq t total,
    padTail_length total ht⟩

/-- Settles O44: byte `8i + j` of the digest is byte `j` of word `i`. -/
theorem serializeBytes : Obligations.SerializeBytes :=
  fun h => ⟨serialize_length h, fun _ _ w _ hj hw => (flatMap_toBe64_getElem? hw hj).trans (toBe64_getElem? w hj)⟩

end Sys2Proof.Machine
end

section
/-! PROOFS. The message schedule (42_schedule.md): rotations bit by bit (00_scope.md R16), the four sigma
functions (R99, R100; 43_round.md R107, R108) and the recurrence of the 80 words (R101, R102). -/

namespace Sys2Proof.Machine

/-! ### Shifts and rotations -/

theorem rotr_eq_rotateRight (x : Word) {n : Nat} (hn : n < 64) : rotr x n = x.rotateRight n := by
  rw [rotr, BitVec.rotateRight_def, Nat.mod_eq_of_lt hn]

/-- Bit `i` of a rotation is the bit `n` places up, counted round the word (00_scope.md R16). -/
theorem rotr_getLsbD (x : Word) {n i : Nat} (hn : n < 64) (hi : i < 64) :
    (rotr x n).getLsbD i = x.getLsbD ((i + n) % 64) := by
  rw [rotr_eq_rotateRight x hn, BitVec.getLsbD_rotateRight, Nat.mod_eq_of_lt hn]
  by_cases hlow : i < 64 - n
  · have hmod : (i + n) % 64 = n + i := by omega
    simp [hlow, hmod]
  · have hmod : (i + n) % 64 = i - (64 - n) := by omega
    simp [hlow, hi, hmod]

theorem shr_xor (x y : Word) (n : Nat) : shr (x ^^^ y) n = shr x n ^^^ shr y n :=
  BitVec.ushiftRight_xor_distrib x y n

theorem rotr_xor (x y : Word) {n : Nat} (hn : n < 64) : rotr (x ^^^ y) n = rotr x n ^^^ rotr y n := by
  apply BitVec.eq_of_getLsbD_eq
  intro i hi
  simp only [BitVec.getLsbD_xor, rotr_getLsbD _ hn hi]

/-! ### The sigma functions: an XOR of three maps linear over XOR -/

/-- Three sums of two terms, added, are the sum of the first terms and the sum of the second ones. -/
theorem xor_xor_xor_exchange (a b c a' b' c' : Word) :
    (a ^^^ a') ^^^ (b ^^^ b') ^^^ (c ^^^ c') = (a ^^^ b ^^^ c) ^^^ (a' ^^^ b' ^^^ c') := by
  ac_rfl

theorem smallSigma0_xor (x y : Word) : smallSigma0 (x ^^^ y) = smallSigma0 x ^^^ smallSigma0 y := by
  simp only [smallSigma0, rotr_xor x y (n := 1) (by decide), rotr_xor x y (n := 8) (by decide), shr_xor,
    xor_xor_xor_exchange]

theorem smallSigma1_xor (x y : Word) : smallSigma1 (x ^^^ y) = smallSigma1 x ^^^ smallSigma1 y := by
  simp only [smallSigma1, rotr_xor x y (n := 19) (by decide), rotr_xor x y (n := 61) (by decide), shr_xor,
    xor_xor_xor_exchange]

theorem bigSigma0_xor (x y : Word) : bigSigma0 (x ^^^ y) = bigSigma0 x ^^^ bigSigma0 y := by
  simp only [bigSigma0, rotr_xor x y (n := 28) (by decide), rotr_xor x y (n := 34) (by decide),
    rotr_xor x y (n := 39) (by decide), xor_xor_xor_exchange]

theorem bigSigma1_xor (x y : Word) : bigSigma1 (x ^^^ y) = bigSigma1 x ^^^ bigSigma1 y := by
  simp only [bigSigma1, rotr_xor x y (n := 14) (by decide), rotr_xor x y (n := 18) (by decide),
    rotr_xor x y (n := 41) (by decide), xor_xor_xor_exchange]

/-! ### The schedule -/

theorem scheduleExtend_length (n : Nat) (w : List Word) : (scheduleExtend n w).length = w.length + n := by
  induction n generalizing w with
  | zero => rfl
  | succ n ih =>
    rw [scheduleExtend, ih, List.length_append, List.length_singleton]
    omega

/-- The words there are stay in front; the new ones come after them. -/
theorem prefix_scheduleExtend (n : Nat) (w : List Word) : w <+: scheduleExtend n w := by
  induction n generalizing w with
  | zero => exact List.prefix_rfl
  | succ n ih => exact (List.prefix_append w _).trans (ih _)

theorem getD_scheduleExtend_of_lt (n : Nat) {w : List Word} {t : Nat} (ht : t < w.length) :
    (scheduleExtend n w).getD t 0 = w.getD t 0 := by
  obtain ⟨added, hw⟩ := prefix_scheduleExtend n w
  rw [← hw, List.getD_append _ _ _ _ ht]

/-- Each added word is the next word of those before it (42_schedule.md R102). -/
theorem getD_scheduleExtend_of_ge {n : Nat} {w : List Word} {t : Nat} (hw : w.length ≤ t) (ht : t < w.length + n) :
    (scheduleExtend n w).getD t 0 = scheduleNext ((scheduleExtend n w).take t) := by
  induction n generalizing w with
  | zero => omega
  | succ n ih =>
    rw [scheduleExtend]
    rcases hw.eq_or_lt with rfl | hlt
    · have hfront := (List.prefix_append w [scheduleNext w]).trans (prefix_scheduleExtend n _)
      rw [← List.prefix_iff_eq_take.mp hfront, getD_scheduleExtend_of_lt n (by simp)]
      simp
    · exact ih (by simpa using hlt) (by simp only [List.length_append, List.length_singleton]; omega)

theorem getD_take_of_lt (w : List Word) {t i : Nat} (hi : i < t) : (w.take t).getD i 0 = w.getD i 0 := by
  rw [List.getD_eq_getElem?_getD, List.getElem?_take_of_lt hi, List.getD_eq_getElem?_getD]

/-- The next word after the first `t` is given by the words 2, 7, 15 and 16 places back. -/
theorem scheduleNext_take {w : List Word} {t : Nat} (hlow : 16 ≤ t) (ht : t ≤ w.length) :
    scheduleNext (w.take t) =
      smallSigma1 (w.getD (t - 2) 0) + w.getD (t - 7) 0 + smallSigma0 (w.getD (t - 15) 0) + w.getD (t - 16) 0 := by
  have hback {k : Nat} (hk : 0 < k) : (w.take t).getD (t - k) 0 = w.getD (t - k) 0 :=
    getD_take_of_lt w (by omega)
  rw [scheduleNext, List.length_take_of_le ht, hback, hback, hback, hback] <;> decide

@[simp] theorem scheduleHead_length (b : List Byte) : (scheduleHead b).length = 16 := by
  simp [scheduleHead]

theorem getD_scheduleHead (b : List Byte) {t : Nat} (ht : t < 16) : (scheduleHead b).getD t 0 = wordAt b t := by
  simp [scheduleHead, ht]

theorem schedule_length (b : List Byte) : (schedule b).length = 80 := by
  rw [schedule, scheduleExtend_length, scheduleHead_length]

/-! ### The statements -/

/-- Settles O47: linearity comes from that of shifts and rotations; the values are computed. -/
theorem sigmaFunctions : Obligations.SigmaFunctions := by
  refine ⟨fun x => ⟨rfl, rfl, rfl, rfl⟩, fun x y => ?_, by decide, by decide, by decide⟩
  exact ⟨smallSigma0_xor x y, smallSigma1_xor x y, bigSigma0_xor x y, bigSigma1_xor x y⟩

/-- Settles O49: the first 16 words stay as the block gives them, and each later one is the next word of those before
it. -/
theorem scheduleRecurrence : Obligations.ScheduleRecurrence := by
  refine fun b => ⟨schedule_length b, fun t ht => ?_, fun t hlow ht => ?_⟩
  · rw [schedule, getD_scheduleExtend_of_lt 64 (by simpa using ht)]
    exact getD_scheduleHead b ht
  · have hnext : (schedule b).getD t 0 = scheduleNext ((schedule b).take t) :=
      getD_scheduleExtend_of_ge (by simpa using hlow) (by simpa using ht)
    have hlen : t ≤ (schedule b).length := by rw [schedule_length]; omega
    rw [hnext, scheduleNext_take hlow hlen]

end Sys2Proof.Machine
end

section
/-! PROOFS. The compression round (43_round.md): Ch and Maj bit by bit (R105, R106), the constants as integer cube roots
(R109), one round (R111) and the 80 rounds of a compression (R110, R114). -/

namespace Sys2Proof.Machine

/-! ### Ch and Maj -/

/-- Bit `i` of Ch is `y`'s where `x`'s is 1 and `z`'s where it is 0; past bit 63 all are 0 (43_round.md R105). -/
theorem ch_getLsbD (x y z : Word) (i : Nat) :
    (ch x y z).getLsbD i = if x.getLsbD i then y.getLsbD i else z.getLsbD i := by
  simp only [ch, BitVec.getLsbD_xor, BitVec.getLsbD_and, BitVec.getLsbD_not]
  by_cases hi : i < 64
  · cases x.getLsbD i <;> simp [hi]
  · have hzero (v : Word) : v.getLsbD i = false := BitVec.getLsbD_of_ge v i (by omega)
    simp [hzero]

/-- Bit `i` of Maj is 1 where at least two of the three bits are (43_round.md R106). -/
theorem maj_getLsbD (x y z : Word) (i : Nat) :
    (maj x y z).getLsbD i = decide (2 ≤ (x.getLsbD i).toNat + (y.getLsbD i).toNat + (z.getLsbD i).toNat) := by
  simp only [maj, BitVec.getLsbD_xor, BitVec.getLsbD_and]
  cases x.getLsbD i <;> cases y.getLsbD i <;> cases z.getLsbD i <;> rfl

theorem ch_allOnes (y z : Word) : ch 0xFFFFFFFFFFFFFFFF y z = y := by
  rw [ch, show (0xFFFFFFFFFFFFFFFF : Word) = BitVec.allOnes 64 from rfl, BitVec.allOnes_and, BitVec.not_allOnes,
    BitVec.zero_and, BitVec.xor_zero]

theorem ch_zero (y z : Word) : ch 0 y z = z := by
  rw [ch, BitVec.ofNat_eq_ofNat, BitVec.zero_and, BitVec.not_zero, BitVec.allOnes_and, BitVec.zero_xor]

theorem ch_same (x y : Word) : ch x y y = y :=
  BitVec.eq_of_getLsbD_eq fun i _ => by rw [ch_getLsbD, ite_self]

theorem maj_swap_left (x y z : Word) : maj x y z = maj y x z := by
  simp only [maj]
  ac_rfl

theorem maj_swap_right (x y z : Word) : maj x y z = maj x z y := by
  simp only [maj]
  ac_rfl

theorem maj_same (x z : Word) : maj x x z = x := by
  simp [maj]

/-! ### The round constants -/

/-- Rule R109's own formula: each constant is the integer cube root of `p * 2^192`, modulo `2^64`. -/
theorem roundConstants_eq_cubeRoots :
    roundConstants = firstPrimes.map fun p => BitVec.ofNat 64 (Nat.nthRoot 3 (p * 2 ^ 192)) := by
  decide +kernel

theorem mem_roundConstants_zip_firstPrimes {x : Word × Nat} (hx : x ∈ roundConstants.zip firstPrimes) :
    ∃ p ∈ firstPrimes, x = (BitVec.ofNat 64 (Nat.nthRoot 3 (p * 2 ^ 192)), p) := by
  have hzip := List.zip_map' (f := fun p => BitVec.ofNat 64 (Nat.nthRoot 3 (p * 2 ^ 192))) (g := id) (l := firstPrimes)
  rw [List.map_id, ← roundConstants_eq_cubeRoots] at hzip
  rw [hzip, List.mem_map] at hx
  obtain ⟨p, hp, rfl⟩ := hx
  exact ⟨p, hp, rfl⟩

theorem firstPrimes_lt {p : Nat} (hp : p ∈ firstPrimes) : p < 32 ^ 3 := by
  revert p
  decide

/-- A number split at bit 64: the word is its low part. -/
theorem div_mul_add_toNat_ofNat (n : Nat) : n / 2 ^ 64 * 2 ^ 64 + (BitVec.ofNat 64 n).toNat = n := by
  rw [BitVec.toNat_ofNat]
  exact Nat.div_add_mod' n _

/-! ### The rounds -/

@[simp] theorem roundConstants_length : roundConstants.length = 80 := rfl

/-- The working variables before round `t`: the rounds of `rounds v w` cut off after the first `t`. -/
def workingBefore (v : Working) (w : List Word) (t : Nat) : Working :=
  ((roundConstants.zip w).take t).foldl (fun v kw => roundStep v kw.1 kw.2) v

/-- Round `t` reads `K[t]` and `W[t]` (43_round.md R112). -/
theorem workingBefore_succ (v : Working) {w : List Word} {t : Nat} (hw : w.length = 80) (ht : t < 80) :
    workingBefore v w (t + 1) = roundStep (workingBefore v w t) (roundConstants.getD t 0) (w.getD t 0) := by
  have hentry {l : List Word} (hl : l.length = 80) : l[t]? = some (l.getD t 0) := by
    rw [List.getD_eq_getElem l 0 (by omega), List.getElem?_eq_getElem]
  have hround : (roundConstants.zip w)[t]? = some (roundConstants.getD t 0, w.getD t 0) :=
    List.getElem?_zip_eq_some.mpr ⟨hentry rfl, hentry hw⟩
  rw [workingBefore, List.take_add_one, hround, List.foldl_append]
  rfl

/-- There is no round 80: the variables before it are the result of all rounds. -/
theorem workingBefore_eighty (v : Working) (w : List Word) : workingBefore v w 80 = rounds v w := by
  rw [workingBefore, List.take_of_length_le (by simp), rounds]

/-- The example of rule R114. -/
theorem compress_iv_abc : compress iv (padTail [0x61, 0x62, 0x63] 3) =
    ⟨0xddaf35a193617aba, 0xcc417349ae204131, 0x12e6fa4e89a97ea2, 0x0a9eeee64b55d39a,
     0x2192992a274fc1a8, 0x36ba3c23a3feebbd, 0x454d4423643ce80e, 0x2a9ac94fa54ca49f⟩ := by
  decide +kernel

/-! ### The statements -/

/-- Settles O48: the two functions bit by bit, their properties, and the examples computed. -/
theorem chooseAndMajorityBits : Obligations.ChooseAndMajorityBits := by
  refine ⟨fun x y z i => ⟨ch_getLsbD x y z i, maj_getLsbD x y z i⟩, fun x y z => ?_, by decide, by decide, by decide⟩
  exact ⟨rfl, rfl, ch_allOnes y z, ch_zero y z, ch_same x y, maj_swap_left x y z, maj_swap_right x y z, maj_same x z⟩

/-- Settles O53: the witness sequence is `workingBefore`, from the loaded H to the result of all rounds. -/
theorem compressRunsEightyRounds : Obligations.CompressRunsEightyRounds := by
  refine ⟨fun h b => ⟨workingBefore (loadWorking h) (schedule b), rfl, fun t ht => ?_, ?_⟩, compress_iv_abc⟩
  · exact workingBefore_succ _ (schedule_length b) ht
  · rw [workingBefore_eighty, compress, addWorking]

/-- Settles O51: the cube root of `p * 2^192` is its part above bit 64, which is below 32, and the constant below. -/
theorem roundConstantsFromCubeRoots : Obligations.RoundConstantsFromCubeRoots := by
  refine ⟨roundConstants_length, fun x hx => ?_⟩
  obtain ⟨p, hp, rfl⟩ := mem_roundConstants_zip_firstPrimes hx
  have hroot : (3 : Nat) ≠ 0 := by decide
  refine ⟨Nat.nthRoot 3 (p * 2 ^ 192) / 2 ^ 64, ?_, ?_⟩
  · have hcube : p * 2 ^ 192 < (32 * 2 ^ 64) ^ 3 := by
      have hlt := firstPrimes_lt hp
      omega
    exact (Nat.div_lt_iff_lt_mul (by decide)).mpr ((Nat.nthRoot_lt_iff hroot).mpr hcube)
  · simp only [div_mul_add_toNat_ofNat]
    exact ⟨Nat.pow_nthRoot_le (.inl hroot), Nat.lt_pow_nthRoot_add_one hroot _⟩

/-- Settles O52: the round is the rule's own simultaneous update, and the example is computed. -/
theorem roundUpdatesWorkingVariables : Obligations.RoundUpdatesWorkingVariables :=
  ⟨fun _ _ _ => rfl, by decide, by decide, by decide, by decide⟩

end Sys2Proof.Machine
end

section
/-! PROOFS. The three errors of a command (60_exceptions.md R116 to R122): which one is answered and when, and that it
changes nothing. -/

namespace Sys2Proof.Machine

/-! ### The error a legal command answers -/

/-- The first error condition that holds for a legal command, in the order of 60_exceptions.md R121; `ok` when none
does. -/
def State.errorOf (s : State) : Instr → ErrCode
  | .create => .ok
  | .update p =>
    if s.lifecycle ≠ .active then .invalidState
    else if Config.maxBytes < s.totalLen.toNat + p.length then .lengthOverflow
    else .ok
  | .finalize => if s.lifecycle ≠ .active then .invalidState else .ok
  | .digest p => if Config.maxBytes < p.length then .lengthOverflow else .ok

/-- The ERR field tells the errors apart. -/
theorem ErrCode.code_inj {e e' : ErrCode} : e.code = e'.code ↔ e = e' := by
  cases e <;> cases e' <;> decide

/-- A legal command's response carries the error that `State.errorOf` names. -/
theorem exec_errField {i : Instr} {s t : State} {r : Response} (h : exec i s = .next t)
    (hr : t.responses = r :: s.responses) : r.errField = (s.errorOf i).code := by
  rcases exec_cases h with ⟨rfl, rfl⟩ | ⟨p, rfl, hl, rfl⟩ | ⟨p, rfl, hl, hn, rfl⟩ | ⟨p, rfl, hl, hn, rfl⟩ |
      ⟨rfl, hl, rfl⟩ | ⟨rfl, hl, rfl⟩ | ⟨p, rfl, hn, rfl⟩ | ⟨p, rfl, hn, rfl⟩ <;>
    obtain ⟨rfl, -⟩ := List.cons.inj hr <;>
    rw [State.statusNow, errField_mk, State.errorOf]
  · rw [if_pos hl]
  · rw [if_neg (not_not_intro hl), if_pos hn]
  · rw [if_neg (not_not_intro hl), if_neg (Nat.not_lt.mpr hn)]
  · rw [if_pos hl]
  · rw [if_neg (not_not_intro hl)]
  · rw [if_pos hn]
  · rw [if_neg (Nat.not_lt.mpr hn)]

/-- INVALID_STATE comes from the lifecycle check of UPDATE and FINALIZE alone (60_exceptions.md R117). -/
theorem State.errorOf_eq_invalidState_iff (s : State) (i : Instr) :
    s.errorOf i = .invalidState ↔ ((∃ p, i = .update p) ∨ i = .finalize) ∧ s.lifecycle ≠ .active := by
  cases i with
  | create => simp [State.errorOf]
  | update p =>
    by_cases hl : s.lifecycle = .active
    · by_cases hn : Config.maxBytes < s.totalLen.toNat + p.length <;> simp [State.errorOf, hl, hn]
    · simp [State.errorOf, hl]
  | finalize => simp [State.errorOf]
  | digest p => by_cases hn : Config.maxBytes < p.length <;> simp [State.errorOf, hn]

/-- LENGTH_OVERFLOW comes from the length checks of UPDATE and DIGEST alone, and an UPDATE reaches its check in ACTIVE
only (60_exceptions.md R119). -/
theorem State.errorOf_eq_lengthOverflow_iff (s : State) (i : Instr) :
    s.errorOf i = .lengthOverflow ↔
      (∃ p, i = .update p ∧ s.lifecycle = .active ∧ Config.maxBytes < s.totalLen.toNat + p.length) ∨
      (∃ p, i = .digest p ∧ Config.maxBytes < p.length) := by
  cases i with
  | create => simp [State.errorOf]
  | update p => by_cases hl : s.lifecycle = .active <;> simp [State.errorOf, hl]
  | finalize => by_cases hl : s.lifecycle = .active <;> simp [State.errorOf, hl]
  | digest p => simp [State.errorOf]

/-! ### Malformed commands, and all others -/

/-- ILLEGAL_COMMAND is raised before the state is read (60_exceptions.md R118). -/
theorem perform_malformed {c : Command} (s : State) (hm : Malformed c) :
    perform c s = .next (s.raise .illegalCommand) := by
  obtain ⟨why, hd⟩ := (malformed_iff c).mp hm
  exact perform_illegal s hd

/-- A command that decodes is the encoding of its instruction (30_encoding.md R63). -/
theorem eq_encode_of_decode {c : Command} {i : Instr} (h : decode c = .legal i) : c = encode i := by
  rw [decode_by_word] at h
  split_ifs at h with h1 hp h2 h3 hp h4 <;> cases h
  · exact congrArg₂ Command.mk h1 hp
  · exact congrArg₂ Command.mk h2 rfl
  · exact congrArg₂ Command.mk h3 hp
  · exact congrArg₂ Command.mk h4 rfl

/-- A command that is not malformed is the encoding of the instruction it decodes to. -/
theorem exists_encode_of_not_malformed {c : Command} (hm : ¬ Malformed c) :
    ∃ i, c = encode i ∧ decode c = .legal i := by
  cases hd : decode c with
  | legal i => exact ⟨i, eq_encode_of_decode hd, rfl⟩
  | illegal why => exact absurd ((malformed_iff c).mpr ⟨why, hd⟩) hm

/-! ### An error is a raised one -/

/-- A raised error's response is its STATUS, without a digest. -/
theorem State.raise_response {s : State} {e : ErrCode} {r : Response}
    (hr : (s.raise e).responses = r :: s.responses) : r = ⟨s.statusNow e, none⟩ :=
  (List.cons.inj hr).1.symm

/-- A legal command that answers an ERR other than 0 has raised it. -/
theorem exec_error_raises {i : Instr} {s t : State} {r : Response} (h : exec i s = .next t)
    (hr : t.responses = r :: s.responses) (he : r.errField ≠ 0) : ∃ e, t = s.raise e := by
  rcases exec_raises_or_responds h with hraise | ⟨u, d, -, rfl⟩
  · exact hraise
  · obtain ⟨rfl, -⟩ := List.cons.inj hr
    exact absurd (errField_mk ..) he

/-- The same of every command, one that does not decode included. -/
theorem perform_error_raises {c : Command} {s t : State} {r : Response} (h : perform c s = .next t)
    (hr : t.responses = r :: s.responses) (he : r.errField ≠ 0) : ∃ e, t = s.raise e := by
  rcases perform_cases h with ⟨_, -, ht⟩ | ⟨i, -, hx⟩
  · exact ⟨_, ht⟩
  · exact exec_error_raises hx hr he

/-- Before the engine performs a command, its step changes nothing but the host's moves. -/
theorem State.afterTurn_eq (s : State) : ∃ moves, s.afterTurn = { s with host := moves } := by
  unfold State.afterTurn
  split
  · exact ⟨_, rfl⟩
  · exact ⟨_, rfl⟩

/-! ### The statements -/

/-- Settles O19: ERR 1 is the lifecycle check's error, and an error is a raised one. -/
theorem invalidStateExactly : Obligations.InvalidStateExactly := by
  intro s t i r h hr
  refine ⟨?_, fun he => ?_⟩
  · rw [exec_errField h hr]
    exact (ErrCode.code_inj (e' := .invalidState)).trans (s.errorOf_eq_invalidState_iff i)
  · have hne : r.errField ≠ 0 := by simp [he]
    obtain ⟨e, rfl⟩ := exec_error_raises h hr hne
    obtain rfl := State.raise_response hr
    exact ⟨s.raise_sameRegisters e, rfl, rfl⟩

/-- Settles O20: the step performs the malformed command, which raises on the registers as they stand. -/
theorem illegalCommandRaises : Obligations.IllegalCommandRaises := by
  intro s c ho hu hm
  obtain ⟨moves, hturn⟩ := s.afterTurn_eq
  have hstep : step s = .next (s.afterTurn.raise .illegalCommand) :=
    (step_performs ho hu).trans (perform_malformed _ hm)
  rw [hturn] at hstep
  exact ⟨_, hstep, ⟨rfl, rfl, rfl, rfl, rfl, rfl⟩, rfl, rfl⟩

/-- Settles O21: ERR 3 is the length checks' error. -/
theorem lengthOverflowExactly : Obligations.LengthOverflowExactly := by
  intro s t i r h hr
  rw [exec_errField h hr]
  exact (ErrCode.code_inj (e' := .lengthOverflow)).trans (s.errorOf_eq_lengthOverflow_iff i)

/-- Settles O22: a malformed command raises ILLEGAL_COMMAND; any other is one of the four, with its `State.errorOf`. -/
theorem errorPriority : Obligations.ErrorPriority := by
  intro s t c r h hr
  by_cases hm : Malformed c
  · rw [perform_malformed s hm] at h
    obtain rfl := Host.Outcome.next.inj h
    exact ⟨fun _ => State.raise_errField hr, by simp only [hm, not_true_eq_false, false_imp_iff, and_self]⟩
  · obtain ⟨i, rfl, hd⟩ := exists_encode_of_not_malformed hm
    rw [perform_legal s hd] at h
    have hmax : 2 ^ 125 - 1 = Config.maxBytes := rfl
    simp only [hm, false_imp_iff, not_false_eq_true, true_imp_iff, exec_errField h hr, hmax]
    cases i with
    | create => simp [encode, Instr.word, State.errorOf, ErrCode.code]
    | update p =>
      simp +contextual [encode, Instr.word, Instr.payload, State.errorOf, ErrCode.code, Nat.not_lt_of_le]
    | finalize => simp +contextual [encode, Instr.word, State.errorOf, ErrCode.code]
    | digest p =>
      simp +contextual [encode, Instr.word, Instr.payload, State.errorOf, ErrCode.code, Nat.not_lt_of_le]

/-- Settles O23: an error is a raised one, and its STATUS is composed from the registers it keeps. -/
theorem errorsChangeNothing : Obligations.ErrorsChangeNothing := by
  intro s t c r h hr he
  obtain ⟨e, rfl⟩ := perform_error_raises h hr he
  obtain rfl := State.raise_response hr
  exact ⟨s.raise_sameRegisters e, rfl, rfl, stateField_mk .., bufLenField_mk ..⟩

end Sys2Proof.Machine
end

section
/-! PROOFS. Encoding and decoding are inverse to each other (30_encoding.md sections 1 and 2). -/

namespace Sys2Proof

/-- The encoding of an instruction decodes to it, whatever payload it carries. -/
theorem decode_encode (i : Instr) : decode (encode i) = .legal i := by
  rw [decode_by_word]
  cases i with
  | create => rfl
  | update p => rfl
  | finalize => rfl
  | digest p => rfl

namespace Machine

/-- Settles O3: `decode` undoes `encode`, and answers an instruction only on its encoding. -/
theorem decodeEncodeAgree : Obligations.DecodeEncodeAgree := by
  intro c i
  constructor
  · exact eq_encode_of_decode
  · rintro rfl
    exact decode_encode i

/-- Settles O1: the eight words are decoded by computation. -/
theorem commandWordsDecode : Obligations.CommandWordsDecode := by
  refine ⟨rfl, rfl, rfl, rfl, ?_, ?_, ?_, ?_⟩ <;> decide

end Machine

end Sys2Proof
end

section
/-! PROOFS. A command in one equation: what it leaves when no error condition holds, and else the raised error. With it
the lifecycle each command leaves (40_streaming.md R75), the answers in UNINIT (70_reset_and_hazards.md R136), and CREATE
(40_streaming.md R77). -/

namespace Sys2Proof.Machine

/-! ### One equation for `exec` -/

/-- What a command leaves when none of its error conditions holds. -/
def State.complete (s : State) : Instr → State
  | .create => s.restart.respond .ok none
  | .update p => (s.takeIn p).respond .ok none
  | .finalize => s.close.respondDigest
  | .digest p => ((s.restart.absorbAll p).addTotal p.length).close.respondDigest

/-- A command completes, or raises the first of its error conditions that holds (60_exceptions.md R121, R122). -/
theorem exec_eq (i : Instr) (s : State) :
    exec i s = .next (if s.errorOf i = .ok then s.complete i else s.raise (s.errorOf i)) := by
  cases i with
  | create => rfl
  | update p =>
    by_cases hl : s.lifecycle = .active
    · by_cases hn : Config.maxBytes < s.totalLen.toNat + p.length
      · simp [execUpdate_overflow hl hn, State.errorOf, hl, hn]
      · simp [execUpdate_active hl (Nat.not_lt.mp hn), State.errorOf, hl, hn, State.complete]
    · simp [execUpdate_outside_active p hl, State.errorOf, hl]
  | finalize =>
    by_cases hl : s.lifecycle = .active
    · simp [execFinalize_active hl, State.errorOf, hl, State.complete]
    · simp [execFinalize_outside_active hl, State.errorOf, hl]
  | digest p =>
    by_cases hn : Config.maxBytes < p.length
    · simp [exec, execDigest, State.errorOf, hn]
    · simp [execDigest_short (Nat.not_lt.mp hn), State.errorOf, hn, State.complete]

theorem exec_of_errorOf_ok {i : Instr} {s : State} (h : s.errorOf i = .ok) : exec i s = .next (s.complete i) := by
  rw [exec_eq, if_pos h]

theorem exec_of_errorOf {i : Instr} {s : State} {e : ErrCode} (h : s.errorOf i = e) (hne : e ≠ .ok) :
    exec i s = .next (s.raise e) := by
  rw [exec_eq, h, if_neg hne]

/-- UPDATE completes in ACTIVE and within `MAX_BYTES` (60_exceptions.md R117, R119). -/
theorem State.errorOf_update_eq_ok_iff (s : State) (p : List Byte) :
    s.errorOf (.update p) = .ok ↔ s.lifecycle = .active ∧ s.totalLen.toNat + p.length ≤ Config.maxBytes := by
  by_cases hl : s.lifecycle = .active <;> simp [State.errorOf, hl]

theorem State.errorOf_finalize_eq_ok_iff (s : State) : s.errorOf .finalize = .ok ↔ s.lifecycle = .active := by
  simp [State.errorOf]

theorem State.errorOf_digest_eq_ok_iff (s : State) (p : List Byte) :
    s.errorOf (.digest p) = .ok ↔ p.length ≤ Config.maxBytes := by
  simp [State.errorOf]

@[simp] theorem State.takeIn_lifecycle (s : State) (p : List Byte) : (s.takeIn p).lifecycle = s.lifecycle :=
  (s.takeIn_frame p).1

@[simp] theorem State.takeIn_host (s : State) (p : List Byte) : (s.takeIn p).host = s.host :=
  (s.takeIn_frame p).2.2.1

@[simp] theorem State.takeIn_responses (s : State) (p : List Byte) : (s.takeIn p).responses = s.responses :=
  (s.takeIn_frame p).2.2.2

@[simp] theorem State.absorbAll_host (s : State) (p : List Byte) : (s.absorbAll p).host = s.host :=
  (s.absorbAll_frame p).2.2.2.1

@[simp] theorem State.absorbAll_responses (s : State) (p : List Byte) : (s.absorbAll p).responses = s.responses :=
  (s.absorbAll_frame p).2.2.2.2.1

/-- No command touches the host's moves. -/
theorem State.complete_host (s : State) (i : Instr) : (s.complete i).host = s.host := by
  cases i with
  | create => rfl
  | update p => exact s.takeIn_host p
  | finalize => rfl
  | digest p => exact s.restart.absorbAll_host p

theorem perform_host {c : Command} {s t : State} (h : perform c s = .next t) : t.host = s.host := by
  rcases perform_cases h with ⟨_, -, rfl⟩ | ⟨i, -, hx⟩
  · rfl
  · rw [exec_eq] at hx
    obtain rfl := Host.Outcome.next.inj hx
    split
    · exact s.complete_host i
    · rfl

/-- The STATE a command leaves when it completes, for the STATE it finds (40_streaming.md R75). -/
def lifecycleAfter : Instr → Lifecycle → Lifecycle
  | .create, _ => .active
  | .update _, l => l
  | .finalize, _ => .finalized
  | .digest _, _ => .finalized

theorem State.complete_lifecycle (s : State) (i : Instr) :
    (s.complete i).lifecycle = lifecycleAfter i s.lifecycle := by
  cases i with
  | create => rfl
  | update p => exact s.takeIn_lifecycle p
  | finalize => rfl
  | digest p => rfl

/-- The STATE a command leaves: its own when it completes, the one it found when it raises. -/
theorem exec_lifecycle {i : Instr} {s t : State} (h : exec i s = .next t) :
    t.lifecycle = if s.errorOf i = .ok then lifecycleAfter i s.lifecycle else s.lifecycle := by
  rw [exec_eq] at h
  obtain rfl := Host.Outcome.next.inj h
  split
  · exact s.complete_lifecycle i
  · rfl

/-- The STATUS of a CREATE. -/
theorem statusWord_active_zero_ok : statusWord .active 0 .ok = 0x00000001 := by
  decide

/-- The STATUS of ILLEGAL_COMMAND in UNINIT, whatever BUF_LEN holds. -/
theorem statusWord_uninit_illegalCommand (n : BitVec 7) : statusWord .uninit n .illegalCommand = 0x00020000 := by
  rw [statusWord, shownLen_uninit]
  decide

/-! ### The statements -/

/-- Settles O28: the lifecycle of the completed command where its error conditions fail, and else the one found. -/
theorem lifecycleTransitions : Obligations.LifecycleTransitions := by
  intro s t i h
  have hl := exec_lifecycle h
  refine ⟨?_, ?_, ?_, ?_⟩
  · rintro rfl
    exact hl
  · rintro p rfl
    rw [hl, lifecycleAfter, ite_self]
  · rintro rfl
    simp only [hl, State.errorOf_finalize_eq_ok_iff, lifecycleAfter]
  · rintro p rfl
    simp only [hl, State.errorOf_digest_eq_ok_iff, lifecycleAfter, Config.maxBytes]

/-- Settles O34: CREATE and DIGEST left out, a command that decodes is one that UNINIT refuses. -/
theorem firstResponseAfterReset : Obligations.FirstResponseAfterReset := by
  intro s c hs hcreate hdigest
  have hl : s.lifecycle ≠ .active := by simp [hs]
  by_cases hm : Malformed c
  · refine ⟨_, perform_malformed s hm, hs, ?_⟩
    rw [State.raise_responses, State.statusNow, hs, statusWord_uninit_illegalCommand, if_pos hm]
  · obtain ⟨i, rfl, hd⟩ := exists_encode_of_not_malformed hm
    have hraise : exec i s = .next (s.raise .invalidState) := by
      cases i with
      | create => exact absurd hcreate (by decide)
      | update p => exact execUpdate_outside_active p hl
      | finalize => exact execFinalize_outside_active hl
      | digest p => exact absurd rfl hdigest
    refine ⟨_, (perform_legal s hd).trans hraise, hs, ?_⟩
    rw [State.raise_responses, State.statusNow, hs, statusWord_uninit_invalidState, if_neg hm]

/-- Settles O4: CREATE raises no error, and its register writes are those of `State.restart`. -/
theorem createStartsMessage : Obligations.CreateStartsMessage := by
  intro s
  refine ⟨s.restart.respond .ok none, rfl, rfl, rfl, rfl, rfl, rfl, rfl, rfl, rfl, ?_⟩
  rw [State.respond_responses, State.statusNow, State.restart_lifecycle, State.restart_bufLen,
    statusWord_active_zero_ok, State.restart_responses]

/-- Settles O5: the second CREATE writes the values the first one left. -/
theorem createTwiceAsOnce : Obligations.CreateTwiceAsOnce :=
  fun _ => ⟨_, _, rfl, rfl, ⟨rfl, rfl, rfl, rfl, rfl, rfl⟩⟩

end Sys2Proof.Machine
end

section
/-! PROOFS. UPDATE in ACTIVE (40_streaming.md section 3): what one UPDATE, and a row of them, do to the message context,
and the message absorbed since the last CREATE (10_state.md R26). -/

namespace Sys2Proof.Machine

/-! ### The context after a payload is taken in -/

/-- `t` is ACTIVE and holds the context of `s` with the bytes `p` absorbed and counted. -/
structure State.TookIn (s t : State) (p : List Byte) : Prop where
  active   : t.lifecycle = .active
  hash     : t.hash = compressAll s.hash (fullBlocks (s.valid ++ p))
  valid    : t.valid = partialBlock (s.valid ++ p)
  bufLen   : t.bufLen.toNat = (s.bufLen.toNat + p.length) % 128
  totalLen : t.totalLen.toNat = s.totalLen.toNat + p.length

/-- A completed UPDATE has taken its payload in. -/
theorem State.tookIn_takeIn {s : State} {p : List Byte} (hl : s.lifecycle = .active)
    (hn : s.totalLen.toNat + p.length ≤ Config.maxBytes) : s.TookIn ((s.takeIn p).respond .ok none) p := by
  obtain ⟨hhash, hvalid, hlen, -⟩ := s.takeIn_spec p
  rw [List.length_append, s.valid_length] at hlen
  exact ⟨(s.takeIn_lifecycle p).trans hl, hhash, hvalid, hlen, State.takeIn_totalLen_toNat hn⟩

theorem State.valid_length_lt (s : State) : s.valid.length < 128 := by
  rw [s.valid_length]
  exact s.bufLen.isLt

/-- An ACTIVE state has its own context with nothing taken in. -/
theorem State.tookIn_nil {s : State} (hl : s.lifecycle = .active) : s.TookIn s [] := by
  refine ⟨hl, ?_, ?_, ?_, rfl⟩
  · rw [List.append_nil, fullBlocks_short _ s.valid_length_lt, compressAll_nil]
  · rw [List.append_nil, partialBlock_short _ s.valid_length_lt]
  · exact (Nat.mod_eq_of_lt s.bufLen.isLt).symm

/-- Payloads taken in one after the other are one payload. -/
theorem State.TookIn.trans {s t u : State} {p q : List Byte} (hp : s.TookIn t p) (hq : t.TookIn u q) :
    s.TookIn u (p ++ q) := by
  refine ⟨hq.active, ?_, ?_, ?_, ?_⟩
  · rw [hq.hash, hp.hash, hp.valid, ← compressAll_append, ← fullBlocks_append, List.append_assoc]
  · rw [hq.valid, hp.valid, ← partialBlock_append, List.append_assoc]
  · rw [hq.bufLen, hp.bufLen, List.length_append]
    omega
  · rw [hq.totalLen, hp.totalLen, List.length_append]
    omega

/-- The context after a payload is determined by the context before it. -/
theorem State.TookIn.context_eq {s t u v : State} {p : List Byte} (hu : s.TookIn u p) (hv : t.TookIn v p)
    (hhash : s.hash = t.hash) (hlen : s.bufLen = t.bufLen) (hvalid : s.valid = t.valid)
    (htotal : s.totalLen = t.totalLen) :
    u.hash = v.hash ∧ u.bufLen = v.bufLen ∧ u.valid = v.valid ∧ u.totalLen = v.totalLen := by
  refine ⟨?_, BitVec.eq_of_toNat_eq ?_, ?_, BitVec.eq_of_toNat_eq ?_⟩
  · rw [hu.hash, hv.hash, hhash, hvalid]
  · rw [hu.bufLen, hv.bufLen, hlen]
  · rw [hu.valid, hv.valid, hvalid]
  · rw [hu.totalLen, hv.totalLen, htotal]

/-- A row of UPDATEs takes in the pieces put together (40_streaming.md R84). -/
theorem runAll_updates {s : State} {ps : List (List Byte)} (hl : s.lifecycle = .active)
    (hn : s.totalLen.toNat + ps.flatten.length ≤ Config.maxBytes) :
    ∃ t, runAll (ps.map .update) s = .next t ∧ s.TookIn t ps.flatten := by
  induction ps generalizing s with
  | nil => exact ⟨s, rfl, State.tookIn_nil hl⟩
  | cons p ps ih =>
    rw [List.flatten_cons, List.length_append] at hn
    have hp : s.totalLen.toNat + p.length ≤ Config.maxBytes := by omega
    have hfirst := State.tookIn_takeIn hl hp
    obtain ⟨u, hrun, hrest⟩ := ih hfirst.active (by rw [hfirst.totalLen]; omega)
    refine ⟨u, ?_, hfirst.trans hrest⟩
    rw [List.map_cons, runAll, execUpdate_active hl hp]
    exact hrun

/-! ### The message absorbed -/

/-- A response writes no register. -/
theorem State.respond_sameRegisters (s : State) (e : ErrCode) (d : Option (List Byte)) :
    SameRegisters s (s.respond e d) :=
  ⟨rfl, rfl, rfl, rfl, rfl, rfl⟩

theorem SameRegisters.valid {s t : State} (h : SameRegisters s t) : t.valid = s.valid := by
  rw [State.valid, h.buf, h.bufLen, State.valid]

/-- The message absorbed is a matter of the registers alone. -/
theorem State.Absorbed.of_sameRegisters {s t : State} {m : List Byte} (hm : s.Absorbed m)
    (h : SameRegisters s t) : t.Absorbed m := by
  refine ⟨h.lifecycle.trans hm.active, hm.bound, ?_, ?_, h.valid.trans hm.pending, h.hash.trans hm.hash⟩
  · rw [h.totalLen, hm.total]
  · rw [h.bufLen, hm.count]

/-- CREATE begins the empty message (40_streaming.md R77). -/
theorem State.restart_absorbed (s : State) : s.restart.Absorbed [] :=
  ⟨rfl, Nat.zero_le _, rfl, rfl, rfl, rfl⟩

/-- Bytes taken in are appended to the message absorbed. -/
theorem State.Absorbed.append {s t : State} {m p : List Byte} (hm : s.Absorbed m) (hp : s.TookIn t p)
    (hn : m.length + p.length ≤ Config.maxBytes) : t.Absorbed (m ++ p) := by
  refine ⟨hp.active, by rwa [List.length_append], ?_, ?_, ?_, ?_⟩
  · rw [hp.totalLen, hm.total, List.length_append]
  · rw [hp.bufLen, hm.count, List.length_append, Nat.mod_add_mod]
  · rw [hp.valid, hm.pending, partialBlock_append m]
  · rw [hp.hash, hm.hash, hm.pending, fullBlocks_append m, compressAll_append]

/-- An UPDATE of a message within `MAX_BYTES` appends its payload (40_streaming.md R78). -/
theorem State.Absorbed.update {s : State} {m p : List Byte} (hm : s.Absorbed m)
    (hn : m.length + p.length ≤ Config.maxBytes) :
    ∃ t, exec (.update p) s = .next t ∧ t.Absorbed (m ++ p) := by
  have hn' : s.totalLen.toNat + p.length ≤ Config.maxBytes := by rwa [hm.total]
  exact ⟨_, execUpdate_active hm.active hn', hm.append (State.tookIn_takeIn hm.active hn') hn⟩

/-! ### Bytes of the buffer -/

/-- The bytes of BUF below BUF_LEN are the valid ones (10_state.md R21). -/
theorem State.buf_getElem? {s : State} {i : Nat} (hi : i < s.bufLen.toNat) : s.buf.toList[i]? = s.valid[i]? :=
  (List.getElem?_take_of_lt hi).symm

/-! ### The statements -/

/-- Settles O6: UPDATE takes its payload in, and answers with the STATUS of the state it leaves. -/
theorem updateAbsorbsPayload : Obligations.UpdateAbsorbsPayload := by
  intro s p hl hn
  have hp := State.tookIn_takeIn hl hn
  refine ⟨_, execUpdate_active hl hn, hp.hash, hp.valid, hp.bufLen, hp.totalLen, hp.active, s.takeIn_host p, rfl, ?_⟩
  rw [State.respond_responses, State.statusNow, s.takeIn_lifecycle, hl, s.takeIn_responses, State.respond_bufLen]

/-- Settles O7: bytes that fill no block are compressed by nothing and stay behind the valid ones. -/
theorem updateWithoutFullBlock : Obligations.UpdateWithoutFullBlock := by
  intro s p hl hn hshort
  have hp := State.tookIn_takeIn hl hn
  have hlen : (s.valid ++ p).length < 128 := by rwa [List.length_append, s.valid_length]
  have hcount := hp.bufLen.trans (Nat.mod_eq_of_lt hshort)
  have hvalid := hp.valid.trans (partialBlock_short _ hlen)
  refine ⟨_, execUpdate_active hl hn, ?_, hcount, fun i hi => ?_, fun j hj => ?_⟩
  · rw [hp.hash, fullBlocks_short _ hlen, compressAll_nil]
  · rw [State.buf_getElem? (by omega), hvalid, List.getElem?_append_left (by rwa [s.valid_length]),
      State.buf_getElem? hi]
  · rw [State.buf_getElem? (by omega), hvalid, List.getElem?_append_right (by rw [s.valid_length]; omega),
      s.valid_length, Nat.add_sub_cancel_left]

/-- Settles O11: an empty payload takes nothing in, so only the response is new. -/
theorem emptyUpdateWritesNothing : Obligations.EmptyUpdateWritesNothing := by
  intro s hl hn
  have hexec : exec (.update []) s = .next (s.respond .ok none) := execUpdate_active hl hn
  refine ⟨_, _, hexec, ⟨rfl, rfl, rfl, rfl, rfl, rfl⟩, rfl, rfl, errField_mk .., ?_, ?_, rfl⟩
  · rw [State.statusNow, stateField_mk, hl, Lifecycle.bits]
  · rw [State.statusNow, bufLenField_mk, hl, shownLen_active]

/-- Settles O16: CREATE begins the empty message, and UPDATE appends. -/
theorem commandsBuildMessage : Obligations.CommandsBuildMessage :=
  ⟨fun s => ⟨_, rfl, s.restart_absorbed.of_sameRegisters (s.restart.respond_sameRegisters _ _)⟩,
    fun _ _ _ hm hn => hm.update hn⟩

end Sys2Proof.Machine
end

section
/-! PROOFS. FINALIZE and DIGEST (40_streaming.md sections 4 and 5), the padded message and its blocks (41_padding.md R95,
R96), and chunking invariance (40_streaming.md R84, R88). -/

namespace Sys2Proof.Machine

/-! ### The padded message -/

theorem paddedMessage_length (m : List Byte) : (paddedMessage m).length = 128 * compressions m.length := by
  have hlt : m.length % 128 ≤ 127 := by omega
  simp only [paddedMessage, messageZeros, zeroCount_eq hlt, compressions, List.length_append, List.length_cons,
    List.length_nil, List.length_replicate, toBe128_length]
  split <;> omega

/-- The message's complete blocks come first, then those of the padded rest (41_padding.md R94, R96). -/
theorem fullBlocks_paddedMessage (m : List Byte) :
    fullBlocks (paddedMessage m) =
      fullBlocks m ++ fullBlocks (padTail (partialBlock m) (BitVec.ofNat 128 m.length)) := by
  have hfield : toBe128 (BitVec.ofNat 128 (8 * m.length)) = lengthField (BitVec.ofNat 128 m.length) := by
    rw [lengthField, BitVec.ofNat_mul]
    rfl
  simp only [paddedMessage, padTail, messageZeros, partialBlock_length, hfield, List.append_assoc]
  exact fullBlocks_append _ _

/-! ### What FINALIZE answers -/

/-- The words FINALIZE leaves in H depend on H, the valid bytes and TOTAL_LEN alone. -/
theorem State.closingHash_congr {s t : State} (hh : s.hash = t.hash) (hv : s.valid = t.valid)
    (hn : s.totalLen = t.totalLen) : s.closingHash = t.closingHash := by
  rw [State.closingHash, hh, hv, hn, State.closingHash]

/-- After a message was absorbed they are the words of that message (41_padding.md R96, R98). -/
theorem State.Absorbed.closingHash {s : State} {m : List Byte} (hm : s.Absorbed m) :
    s.closingHash = compressAll iv (fullBlocks (paddedMessage m)) := by
  have htotal : s.totalLen = BitVec.ofNat 128 m.length := by
    rw [← hm.total, BitVec.ofNat_toNat, BitVec.setWidth_eq]
  rw [State.closingHash, hm.hash, hm.pending, htotal, fullBlocks_paddedMessage, compressAll_append]

/-- The response of a successful FINALIZE or DIGEST (40_streaming.md R85). -/
theorem State.close_respondDigest_responses (s : State) :
    s.close.respondDigest.responses = ⟨0x00000002, some (serialize s.closingHash)⟩ :: s.responses := by
  rw [State.respondDigest_responses, State.statusNow, State.close_lifecycle, statusWord_finalized_ok,
    State.close_hash, State.close_responses]

/-- The padded tail with its count of zero bytes written out (41_padding.md R91, R93). -/
theorem padTail_valid (s : State) (total : BitVec 128) :
    padTail s.valid total = s.valid ++ [0x80] ++
      List.replicate (if s.bufLen.toNat ≤ 111 then 111 - s.bufLen.toNat else 239 - s.bufLen.toNat) 0 ++
      toBe128 (8 * total) := by
  have hlen : s.bufLen.toNat ≤ 127 := Nat.le_of_lt_succ s.bufLen.isLt
  rw [padTail, s.valid_length, zeroCount_eq hlen, lengthField]

/-! ### DIGEST and the row of commands it stands for -/

/-- The context of a DIGEST before it is closed: its payload absorbed as a message of its own (40_streaming.md R87). -/
theorem State.digest_absorbed (s : State) {p : List Byte} (hn : p.length ≤ Config.maxBytes) :
    ((s.restart.absorbAll p).addTotal p.length).Absorbed p := by
  obtain ⟨hhash, hvalid, hlen⟩ := s.restart.absorbAll_spec p
  obtain ⟨htotal, hlife, -⟩ := s.restart.absorbAll_frame p
  have hempty : s.restart.valid = [] := rfl
  rw [hempty, List.nil_append] at hhash hvalid hlen
  have hlt : Config.maxBytes < 2 ^ 128 := by decide
  refine ⟨hlife, hn, ?_, hlen, hvalid, hhash⟩
  rw [State.addTotal_totalLen, htotal, State.restart_totalLen, BitVec.toNat_ofNat, BitVec.ofNat_eq_ofNat,
    BitVec.toNat_ofNat, Nat.zero_mod, Nat.zero_add, Nat.mod_eq_of_lt (by omega)]

/-- Commands in a row are run in two parts. -/
theorem runAll_append {is js : List Instr} {s t : State} (h : runAll is s = .next t) :
    runAll (is ++ js) s = runAll js t := by
  induction is generalizing s with
  | nil =>
    obtain rfl := Host.Outcome.next.inj h
    rfl
  | cons i is ih =>
    obtain ⟨u, hu⟩ := exec_answers i s
    rw [runAll, hu] at h
    rw [List.cons_append, runAll, hu]
    exact ih h

/-- CREATE and a row of UPDATEs build the message of the pieces put together. -/
theorem runAll_create_updates (s : State) {ps : List (List Byte)} (hn : ps.flatten.length ≤ Config.maxBytes) :
    ∃ t, runAll (.create :: ps.map .update) s = .next t ∧ t.Absorbed ps.flatten := by
  have hstart := s.restart_absorbed.of_sameRegisters (s.restart.respond_sameRegisters .ok none)
  obtain ⟨t, hrun, ht⟩ := runAll_updates (ps := ps) hstart.active (by rw [hstart.total]; simpa using hn)
  exact ⟨t, hrun, hstart.append ht (by simpa using hn)⟩

/-! ### The statements -/

/-- Settles O43: the length of the padded message is a multiple of a block, and its blocks are counted by it. -/
theorem compressionCount : Obligations.CompressionCount := by
  refine fun m => ⟨paddedMessage_length m, ?_⟩
  rw [fullBlocks, firstBlocks_length, paddedMessage_length, Nat.mul_div_cancel_left _ (by decide), compressions]

/-- Settles O13: the padded tail is the one of the statement, and the response carries H as closed. -/
theorem finalizeReturnsDigest : Obligations.FinalizeReturnsDigest := by
  intro s hl
  refine ⟨_, execFinalize_active hl, ?_, rfl, rfl, rfl, s.close_respondDigest_responses⟩
  rw [State.respondDigest_hash, State.close_hash, State.closingHash, padTail_valid]

/-- Settles O15: the closing words are those of the message absorbed. -/
theorem finalizeReturnsMessageDigest : Obligations.FinalizeReturnsMessageDigest := by
  intro s m hm
  refine ⟨_, execFinalize_active hm.active, rfl, hm.closingHash, ?_⟩
  rw [State.close_respondDigest_responses, hm.closingHash, sha512]

/-- Settles O17: DIGEST closes the message of its payload alone. -/
theorem digestReturnsPayloadDigest : Obligations.DigestReturnsPayloadDigest := by
  intro s p hn
  have hp := s.digest_absorbed hn
  refine ⟨_, execDigest_short hn, rfl, hp.closingHash, s.restart.absorbAll_host p, rfl, ?_⟩
  rw [State.close_respondDigest_responses, hp.closingHash, sha512, State.addTotal_responses,
    s.restart.absorbAll_responses, s.restart_responses]

/-- Settles O18: both ways close the same message. -/
theorem digestEqualsStreaming : Obligations.DigestEqualsStreaming := by
  intro s s' ps hn
  obtain ⟨t, hdigest, htlife, hthash, -, -, htresp⟩ := digestReturnsPayloadDigest s ps.flatten hn
  obtain ⟨v, hbuild, hv⟩ := runAll_create_updates s' hn
  obtain ⟨u, hfinal, hulife, huhash, huresp⟩ := finalizeReturnsMessageDigest v ps.flatten hv
  refine ⟨t, u, _, hdigest, ?_, htlife.trans hulife.symm, hthash.trans huhash.symm, congrArg List.head? htresp,
    congrArg List.head? huresp⟩
  rw [runAll_append hbuild, runAll, hfinal]
  rfl

/-- Settles O12: the row of UPDATEs and the one UPDATE take in the same bytes, so a FINALIZE closes the same context. -/
theorem chunkingInvariance : Obligations.ChunkingInvariance := by
  intro s ps hl hn
  obtain ⟨t, hrun, ht⟩ := runAll_updates hl hn
  have hu := State.tookIn_takeIn hl hn
  obtain ⟨hhash, hlen, hvalid, htotal⟩ := ht.context_eq hu rfl rfl rfl rfl
  refine ⟨t, _, _, _, _, hrun, execUpdate_active hl hn, hhash, hvalid, hlen, htotal, ht.active, hu.active,
    execFinalize_active ht.active, execFinalize_active hu.active, t.close_respondDigest_responses, ?_⟩
  rw [State.close_respondDigest_responses, State.closingHash_congr hhash hvalid htotal]

end Sys2Proof.Machine
end

section
/-! PROOFS. Steps of engine and host (70_reset_and_hazards.md): the four turns, what each does, and what every step keeps
(10_state.md R26, R27). -/

namespace Sys2Proof.Machine

/-! ### The four turns -/

/-- Whose turn a step is: a reset, the outstanding command, an idle moment, or the host's next command. -/
theorem State.turn_cases (s : State) :
    (∃ rest, s.host = .reset :: rest) ∨
    (∃ c, s.outstanding = some c ∧ s.undisturbed) ∨
    (s.outstanding = none ∧ (s.host = [] ∨ ∃ rest, s.host = .wait :: rest)) ∨
    (s.outstanding = none ∧ ∃ c rest, s.host = .issue c :: rest) := by
  by_cases hreset : ∃ rest, s.host = .reset :: rest
  · exact .inl hreset
  · cases ho : s.outstanding with
    | some c => exact .inr (.inl ⟨c, rfl, not_exists.mp hreset⟩)
    | none =>
      match hh : s.host with
      | [] => exact .inr (.inr (.inl ⟨rfl, .inl rfl⟩))
      | .wait :: rest => exact .inr (.inr (.inl ⟨rfl, .inr ⟨rest, rfl⟩⟩))
      | .issue c :: rest => exact .inr (.inr (.inr ⟨rfl, c, rest, rfl⟩))
      | .reset :: rest => exact absurd ⟨rest, hh⟩ hreset

theorem step_reset {s : State} {rest : List HostMove} (hh : s.host = .reset :: rest) :
    step s = .next (State.platformReset { s with host := rest }) := by
  simp [step, hostTurn, hh]

theorem step_idles {s : State} (ho : s.outstanding = none) (hh : s.host = [] ∨ ∃ rest, s.host = .wait :: rest) :
    step s = .next { s with host := s.host.tail } := by
  rcases hh with hh | ⟨rest, hh⟩
  · have hs : { s with host := s.host.tail } = s := by rw [hh, List.tail_nil, ← hh]
    rw [hs]
    simp [step, hostTurn, hh, engineTurn, ho]
  · simp [step, hostTurn, hh, engineTurn, ho]

theorem step_issues {s : State} {c : Command} {rest : List HostMove} (ho : s.outstanding = none)
    (hh : s.host = .issue c :: rest) : step s = .next { s with outstanding := some c, host := rest } := by
  simp [step, hostTurn, hh, issueTurn, ho]

/-- A command to be issued is no reset, so it waits behind the outstanding one. -/
theorem State.undisturbed_of_issue {s : State} {c : Command} {rest : List HostMove}
    (hh : s.host = .issue c :: rest) : s.undisturbed := by
  intro rest' hr
  rw [hh] at hr
  cases hr

theorem State.afterTurn_of_issue {s : State} {c : Command} {rest : List HostMove} (hh : s.host = .issue c :: rest) :
    s.afterTurn = s := by
  simp [State.afterTurn, hh]

theorem State.afterTurn_sameRegisters (s : State) : SameRegisters s s.afterTurn := by
  obtain ⟨moves, hturn⟩ := s.afterTurn_eq
  rw [hturn]
  exact ⟨rfl, rfl, rfl, rfl, rfl, rfl⟩

/-- Every step resets the engine, performs the outstanding command, or changes neither a register nor the responses. -/
theorem step_next_cases {s t : State} (h : step s = .next t) :
    (∃ rest, s.host = .reset :: rest ∧ t = State.platformReset { s with host := rest }) ∨
    (∃ c, s.outstanding = some c ∧ perform c s.afterTurn = .next t) ∨
    (SameRegisters s t ∧ t.responses = s.responses) := by
  rcases s.turn_cases with ⟨rest, hh⟩ | ⟨c, ho, hu⟩ | ⟨ho, hh⟩ | ⟨ho, c, rest, hh⟩
  · rw [step_reset hh] at h
    exact .inl ⟨rest, hh, (Host.Outcome.next.inj h).symm⟩
  · rw [step_performs ho hu] at h
    exact .inr (.inl ⟨c, ho, h⟩)
  · rw [step_idles ho hh] at h
    obtain rfl := Host.Outcome.next.inj h
    exact .inr (.inr ⟨⟨rfl, rfl, rfl, rfl, rfl, rfl⟩, rfl⟩)
  · rw [step_issues ho hh] at h
    obtain rfl := Host.Outcome.next.inj h
    exact .inr (.inr ⟨⟨rfl, rfl, rfl, rfl, rfl, rfl⟩, rfl⟩)

theorem step_answers (s : State) : ∃ t, step s = .next t := by
  rcases s.turn_cases with ⟨rest, hh⟩ | ⟨c, ho, hu⟩ | ⟨ho, hh⟩ | ⟨ho, c, rest, hh⟩
  · exact ⟨_, step_reset hh⟩
  · rw [step_performs ho hu]
    exact perform_answers c _
  · exact ⟨_, step_idles ho hh⟩
  · exact ⟨_, step_issues ho hh⟩

/-! ### The final words -/

/-- In FINALIZED only CREATE and DIGEST write H: UPDATE and FINALIZE raise there (10_state.md R27). -/
theorem exec_hash_of_finalized {i : Instr} {s t : State} (h : exec i s = .next t) (hs : s.lifecycle = .finalized) :
    t.hash = s.hash ∨ i = .create ∨ ∃ p, i = .digest p := by
  have hl : s.lifecycle ≠ .active := by simp [hs]
  cases i with
  | create => exact .inr (.inl rfl)
  | update p =>
    rw [execUpdate_outside_active p hl] at h
    obtain rfl := Host.Outcome.next.inj h
    exact .inl rfl
  | finalize =>
    rw [execFinalize_outside_active hl] at h
    obtain rfl := Host.Outcome.next.inj h
    exact .inl rfl
  | digest p => exact .inr (.inr ⟨p, rfl⟩)

/-! ### The form of a response -/

/-- A STATUS word without a digest has its form, and so has one with a digest of 64 bytes where a success left
FINALIZED (30_encoding.md R67, R68). -/
theorem Response.sound_mk {l : Lifecycle} (n : BitVec 7) {e : ErrCode} {d : Option (List Byte)}
    (hd : ∀ x, d = some x → x.length = 64 ∧ e = .ok ∧ l = .finalized) : (Response.mk (statusWord l n e) d).Sound := by
  refine ⟨statusWord_reserved l n e, ?_, ?_, ?_, fun x hx => ?_⟩
  · rw [stateField_mk]
    cases l <;> decide
  · rw [errField_mk]
    exact e.code_le_three
  · rw [stateField_mk, bufLenField_mk]
    intro hne
    cases l with
    | active => exact absurd rfl hne
    | uninit => rfl
    | finalized => rfl
  · obtain ⟨hlen, rfl, rfl⟩ := hd x hx
    exact ⟨hlen, errField_mk .., stateField_mk ..⟩

theorem Response.sound_of_no_digest (l : Lifecycle) (n : BitVec 7) (e : ErrCode) :
    (Response.mk (statusWord l n e) none).Sound :=
  Response.sound_mk n fun _ hx => by cases hx

/-! ### The invariant -/

/-- The invariant is a matter of the registers, the last digest and the form of the responses. -/
theorem State.Inv.of_sameRegisters {s t : State} (hs : s.Inv) (h : SameRegisters s t)
    (hlast : lastDigest t.responses = lastDigest s.responses) (hsound : ∀ r ∈ t.responses, r.Sound) : t.Inv := by
  refine ⟨fun hl => ?_, fun hl => ?_, hsound⟩
  · obtain ⟨m, hm⟩ := hs.active (h.lifecycle.symm.trans hl)
    exact ⟨m, hm.of_sameRegisters h⟩
  · rw [hlast, h.hash]
    exact hs.finalized (h.lifecycle.symm.trans hl)

/-- An UNINIT engine has only the form of its responses to keep. -/
theorem State.inv_of_uninit {s : State} (hl : s.lifecycle = .uninit) (hsound : ∀ r ∈ s.responses, r.Sound) : s.Inv :=
  ⟨fun ha => by simp [hl] at ha, fun hf => by simp [hl] at hf, hsound⟩

theorem State.inv_of_absorbed {s : State} {m : List Byte} (hm : s.Absorbed m)
    (hsound : ∀ r ∈ s.responses, r.Sound) : s.Inv :=
  ⟨fun _ => ⟨m, hm⟩, fun hf => by simp [hm.active] at hf, hsound⟩

theorem State.Inv.raise {s : State} (hs : s.Inv) (e : ErrCode) : (s.raise e).Inv := by
  refine hs.of_sameRegisters (s.raise_sameRegisters e) rfl ?_
  rw [State.raise_responses, List.forall_mem_cons]
  exact ⟨Response.sound_of_no_digest .., hs.responses⟩

/-- A response of success after a message was absorbed keeps the invariant. -/
theorem State.Absorbed.inv_respond {s : State} {m : List Byte} (hm : s.Absorbed m)
    (hsound : ∀ r ∈ s.responses, r.Sound) : (s.respond .ok none).Inv := by
  refine State.inv_of_absorbed (hm.of_sameRegisters (s.respond_sameRegisters _ _)) ?_
  rw [State.respond_responses, List.forall_mem_cons]
  exact ⟨Response.sound_of_no_digest .., hsound⟩

/-- Closing a message and answering its digest meets the invariant. -/
theorem State.inv_close {s : State} (hsound : ∀ r ∈ s.responses, r.Sound) : s.close.respondDigest.Inv := by
  refine ⟨fun ha => by simp at ha, fun _ => rfl, ?_⟩
  rw [State.respondDigest_responses, List.forall_mem_cons]
  refine ⟨Response.sound_mk _ fun x hx => ?_, hsound⟩
  obtain rfl := Option.some.inj hx
  exact ⟨serialize_length _, rfl, rfl⟩

/-- Each completed command keeps the invariant: by a message begun, appended to, or closed. -/
theorem State.Inv.complete {s : State} (hs : s.Inv) {i : Instr} (hok : s.errorOf i = .ok) : (s.complete i).Inv := by
  cases i with
  | create => exact s.restart_absorbed.inv_respond hs.responses
  | update p =>
    obtain ⟨hl, hn⟩ := (s.errorOf_update_eq_ok_iff p).mp hok
    obtain ⟨m, hm⟩ := hs.active hl
    have hp := hm.append (State.tookIn_takeIn hl hn) (by rwa [← hm.total])
    refine State.inv_of_absorbed hp (List.forall_mem_cons.mpr ⟨Response.sound_of_no_digest .., ?_⟩)
    rw [s.takeIn_responses]
    exact hs.responses
  | finalize => exact State.inv_close hs.responses
  | digest p =>
    refine State.inv_close ?_
    rw [State.addTotal_responses, State.absorbAll_responses]
    exact hs.responses

theorem State.Inv.perform {s t : State} (hs : s.Inv) {c : Command} (h : perform c s = .next t) : t.Inv := by
  rcases perform_cases h with ⟨_, -, rfl⟩ | ⟨i, -, hx⟩
  · exact hs.raise _
  · rw [exec_eq] at hx
    obtain rfl := Host.Outcome.next.inj hx
    split
    · next hok => exact hs.complete hok
    · exact hs.raise _

/-! ### The statements -/

/-- Settles O32: a reset leaves UNINIT, a command keeps the invariant, and every other step keeps all it speaks of. -/
theorem stepKeepsInvariant : Obligations.StepKeepsInvariant := by
  intro s t hs h
  rcases step_next_cases h with ⟨rest, -, rfl⟩ | ⟨c, -, hx⟩ | ⟨hsame, hresp⟩
  · exact State.inv_of_uninit rfl hs.responses
  · have hturn : s.afterTurn.Inv := hs.of_sameRegisters s.afterTurn_sameRegisters
      (by rw [s.afterTurn_responses]) (by rw [s.afterTurn_responses]; exact hs.responses)
    exact hturn.perform hx
  · exact hs.of_sameRegisters hsame (by rw [hresp]) (by rw [hresp]; exact hs.responses)

/-- Settles O31: UNINIT, with no response yet. -/
theorem resetMeetsInvariant : Obligations.ResetMeetsInvariant :=
  State.inv_of_uninit rfl fun _ hr => absurd hr List.not_mem_nil

/-- Settles O30: H changes by a reset or by a command, and in FINALIZED that is CREATE or DIGEST. -/
theorem finalWordsAreKept : Obligations.FinalWordsAreKept := by
  intro s t h hs hne
  rcases step_next_cases h with ⟨rest, hh, -⟩ | ⟨c, ho, hx⟩ | ⟨hsame, -⟩
  · exact .inl ⟨rest, hh⟩
  · have hturn := s.afterTurn_sameRegisters
    rcases perform_cases hx with ⟨_, -, rfl⟩ | ⟨i, hd, hx⟩
    · exact absurd hturn.hash hne
    · rcases exec_hash_of_finalized hx (hturn.lifecycle.trans hs) with hkept | rfl | ⟨p, rfl⟩
      · exact absurd (hkept.trans hturn.hash) hne
      · exact .inr ⟨c, ho, .inl hd⟩
      · exact .inr ⟨c, ho, .inr ⟨p, hd⟩⟩
  · exact absurd hsame.hash hne

/-- Settles O40: each of the turns answers, and only a performed command adds a response. -/
theorem everyStepCompletes : Obligations.EveryStepCompletes := by
  intro s
  obtain ⟨t, h⟩ := step_answers s
  refine ⟨t, h, ?_⟩
  rcases step_next_cases h with ⟨rest, -, rfl⟩ | ⟨c, -, hx⟩ | ⟨-, hresp⟩
  · exact .inl rfl
  · obtain ⟨-, r, hr⟩ := perform_one_response hx
    exact .inr ⟨r, by rw [hr, s.afterTurn_responses]⟩
  · exact .inl hresp

/-- Settles O33: the reset turn comes first and leaves UNINIT. -/
theorem resetGivesUninit : Obligations.ResetGivesUninit :=
  ⟨rfl, rfl, fun _ _ hh => ⟨_, step_reset hh, rfl, rfl, rfl, rfl⟩⟩

/-- Settles O37: the engine's turn performs the command, and performing one that decodes is `exec` of it. -/
theorem stepRunsDecodedCommand : Obligations.StepRunsDecodedCommand :=
  fun s _ _ ho hu hd => (step_performs ho hu).trans (perform_legal s.afterTurn hd)

/-- Settles O38: the host's command is accepted by the issuing turn; an outstanding one is performed before it. -/
theorem hostIssuesOneCommandAtATime : Obligations.HostIssuesOneCommandAtATime := by
  intro s c rest hh
  refine ⟨fun ho => step_issues ho hh, fun d ho => ?_⟩
  obtain ⟨t, ht⟩ := perform_answers d s
  have hstep : step s = .next t := by
    rw [step_performs ho (State.undisturbed_of_issue hh), State.afterTurn_of_issue hh, ht]
  exact ⟨t, hstep, (perform_one_response ht).1, (perform_host ht).trans hh⟩

/-- Settles O39: the idle turn uses up a wait and writes nothing else. -/
theorem idleEngineKeepsState : Obligations.IdleEngineKeepsState :=
  fun _ ho hh => ⟨_, step_idles ho hh, ⟨rfl, rfl, rfl, rfl, rfl, rfl⟩, ho, rfl, rfl⟩

end Sys2Proof.Machine
end

section
/-! PROOFS. What makes no difference: the responses given before (60_exceptions.md R123), the registers no rule reads
(70_reset_and_hazards.md R135), and the other engines of a platform (20_memory.md R53). -/

namespace Sys2Proof.Machine

/-! ### The response of a completed command -/

/-- A completed command answers STATUS as it leaves the registers, and H serialized if it returns a digest. -/
theorem State.complete_responses (s : State) (i : Instr) :
    (s.complete i).responses =
      ⟨(s.complete i).statusNow .ok, if i.returnsDigest then some (serialize (s.complete i).hash) else none⟩ ::
        s.responses := by
  cases i with
  | create => rfl
  | update p => exact congrArg (List.cons _) (s.takeIn_responses p)
  | finalize => rfl
  | digest p => exact congrArg (List.cons _) (s.restart.absorbAll_responses p)

theorem State.complete_outstanding (s : State) (i : Instr) : (s.complete i).outstanding = none := by
  cases i <;> rfl

/-- STATUS shows STATE, and BUF_LEN when ACTIVE (10_state.md R31). -/
theorem State.statusNow_congr {s t : State} (hl : s.lifecycle = t.lifecycle)
    (hb : s.lifecycle = .active → s.bufLen = t.bufLen) (e : ErrCode) : s.statusNow e = t.statusNow e := by
  rw [State.statusNow, State.statusNow, ← hl]
  by_cases ha : s.lifecycle = .active
  · rw [hb ha]
  · simp only [statusWord, shownLen, ha, if_false]

/-! ### States with the same registers -/

/-- States with the same registers differ in the host's side alone. -/
theorem SameRegisters.exists_eq {s t : State} (h : SameRegisters s t) :
    ∃ o moves rs, t = { s with outstanding := o, host := moves, responses := rs } := by
  obtain ⟨hhash, hbuf, hlen, htotal, hlife, hdraws⟩ := h
  exact ⟨t.outstanding, t.host, t.responses, by rw [← hhash, ← hbuf, ← hlen, ← htotal, ← hlife, ← hdraws]⟩

theorem SameRegisters.absorb {s t : State} (h : SameRegisters s t) (b : Byte) :
    SameRegisters (s.absorb b) (t.absorb b) := by
  obtain ⟨o, moves, rs, rfl⟩ := h.exists_eq
  unfold State.absorb
  by_cases hfull : s.bufLen.toNat + 1 = 128
  · rw [if_pos hfull, if_pos hfull]
    exact ⟨rfl, rfl, rfl, rfl, rfl, rfl⟩
  · rw [if_neg hfull, if_neg hfull]
    exact ⟨rfl, rfl, rfl, rfl, rfl, rfl⟩

theorem SameRegisters.absorbAll {s t : State} (h : SameRegisters s t) (p : List Byte) :
    SameRegisters (s.absorbAll p) (t.absorbAll p) := by
  induction p generalizing s t with
  | nil => exact h
  | cons b p ih => exact ih (h.absorb b)

theorem SameRegisters.addTotal {s t : State} (h : SameRegisters s t) (n : Nat) :
    SameRegisters (s.addTotal n) (t.addTotal n) := by
  obtain ⟨o, moves, rs, rfl⟩ := h.exists_eq
  exact ⟨rfl, rfl, rfl, rfl, rfl, rfl⟩

theorem SameRegisters.takeIn {s t : State} (h : SameRegisters s t) (p : List Byte) :
    SameRegisters (s.takeIn p) (t.takeIn p) := by
  unfold State.takeIn
  split
  · exact h
  · obtain ⟨o, moves, rs, hs⟩ := ((h.absorbAll p).addTotal p.length).exists_eq
    rw [hs]
    exact ⟨rfl, rfl, rfl, rfl, rfl, rfl⟩

theorem SameRegisters.close {s t : State} (h : SameRegisters s t) : SameRegisters s.close t.close := by
  obtain ⟨o, moves, rs, rfl⟩ := h.exists_eq
  exact ⟨rfl, rfl, rfl, rfl, rfl, rfl⟩

theorem SameRegisters.restart {s t : State} (h : SameRegisters s t) : SameRegisters s.restart t.restart :=
  ⟨rfl, h.buf, rfl, rfl, rfl, h.draws⟩

theorem SameRegisters.respond {s t : State} (h : SameRegisters s t) (e : ErrCode) (d d' : Option (List Byte)) :
    SameRegisters (s.respond e d) (t.respond e d') :=
  ⟨h.hash, h.buf, h.bufLen, h.totalLen, h.lifecycle, h.draws⟩

/-- A completed command writes registers from registers alone. -/
theorem SameRegisters.complete {s t : State} (h : SameRegisters s t) (i : Instr) :
    SameRegisters (s.complete i) (t.complete i) := by
  cases i with
  | create => exact h.restart.respond _ _ _
  | update p => exact (h.takeIn p).respond _ _ _
  | finalize => exact h.close.respond _ _ _
  | digest p => exact ((h.restart.absorbAll p).addTotal p.length).close.respond _ _ _

theorem SameRegisters.statusNow {s t : State} (h : SameRegisters s t) (e : ErrCode) :
    s.statusNow e = t.statusNow e :=
  State.statusNow_congr h.lifecycle.symm (fun _ => h.bufLen.symm) e

theorem SameRegisters.errorOf {s t : State} (h : SameRegisters s t) (i : Instr) : s.errorOf i = t.errorOf i := by
  cases i <;> simp only [State.errorOf, h.lifecycle, h.totalLen]

/-- The same registers raise the same response. -/
theorem SameRegisters.raise_response {s t : State} (h : SameRegisters s t) (e : ErrCode) :
    ∃ q, SameRegisters (s.raise e) (t.raise e) ∧
      (s.raise e).responses = q :: s.responses ∧ (t.raise e).responses = q :: t.responses :=
  ⟨_, h.respond e none none, rfl, by rw [State.raise_responses, h.statusNow]⟩

/-- A command finds its answer in the registers alone. -/
theorem perform_sameRegisters {s t : State} (h : SameRegisters s t) (c : Command) :
    ∃ u v q, perform c s = .next u ∧ perform c t = .next v ∧ SameRegisters u v ∧
      u.responses = q :: s.responses ∧ v.responses = q :: t.responses := by
  cases hd : decode c with
  | illegal why =>
    obtain ⟨q, hraise⟩ := h.raise_response .illegalCommand
    exact ⟨_, _, q, perform_illegal s hd, perform_illegal t hd, hraise⟩
  | legal i =>
    rw [perform_legal s hd, perform_legal t hd]
    by_cases hok : s.errorOf i = .ok
    · have hdone := h.complete i
      refine ⟨_, _, _, exec_of_errorOf_ok hok, exec_of_errorOf_ok (h.errorOf i ▸ hok), hdone, s.complete_responses i, ?_⟩
      rw [t.complete_responses, ← hdone.statusNow, hdone.hash]
    · obtain ⟨q, hraise⟩ := h.raise_response (s.errorOf i)
      exact ⟨_, _, q, exec_of_errorOf rfl hok, exec_of_errorOf (h.errorOf i).symm hok, hraise⟩

/-! ### States that differ in what no rule reads -/

theorem ObsEq.errorOf {s t : State} (h : ObsEq s t) (i : Instr) : s.errorOf i = t.errorOf i := by
  cases i with
  | create => rfl
  | update p =>
    by_cases hl : s.lifecycle = .active
    · obtain ⟨-, -, -, htotal⟩ := h.context hl
      simp only [State.errorOf, ← h.lifecycle, htotal]
    · simp only [State.errorOf, ← h.lifecycle, ne_eq, hl, not_false_eq_true, if_true]
  | finalize => simp only [State.errorOf, h.lifecycle]
  | digest p => rfl

theorem ObsEq.raise {s t : State} (h : ObsEq s t) (e : ErrCode) : ObsEq (s.raise e) (t.raise e) := by
  refine ⟨h.lifecycle, rfl, h.host, ?_, h.context⟩
  rw [State.raise_responses, State.raise_responses, h.responses,
    State.statusNow_congr h.lifecycle fun hl => (h.context hl).2.1]

theorem ObsEq.complete_lifecycle {s t : State} (h : ObsEq s t) (i : Instr) :
    (s.complete i).lifecycle = (t.complete i).lifecycle := by
  rw [s.complete_lifecycle, t.complete_lifecycle, h.lifecycle]

/-- An ACTIVE engine's context after a command comes from the IV, or from the context before it. -/
theorem ObsEq.complete_context {s t : State} (h : ObsEq s t) {i : Instr} (hok : s.errorOf i = .ok)
    (ha : (s.complete i).lifecycle = .active) :
    (s.complete i).hash = (t.complete i).hash ∧ (s.complete i).bufLen = (t.complete i).bufLen ∧
    (s.complete i).valid = (t.complete i).valid ∧ (s.complete i).totalLen = (t.complete i).totalLen := by
  cases i with
  | create => exact ⟨rfl, rfl, rfl, rfl⟩
  | update p =>
    obtain ⟨hl, hn⟩ := (s.errorOf_update_eq_ok_iff p).mp hok
    obtain ⟨hl', hn'⟩ := (t.errorOf_update_eq_ok_iff p).mp (h.errorOf _ ▸ hok)
    obtain ⟨hhash, hlen, hvalid, htotal⟩ := h.context hl
    exact (State.tookIn_takeIn hl hn).context_eq (State.tookIn_takeIn hl' hn') hhash hlen hvalid htotal
  | finalize => cases ha
  | digest p => cases ha

/-- The digest a command returns is that of an ACTIVE context or of its payload. -/
theorem ObsEq.complete_hash {s t : State} (h : ObsEq s t) {i : Instr} (hok : s.errorOf i = .ok) :
    (s.complete i).hash = (t.complete i).hash := by
  cases i with
  | create => rfl
  | update p =>
    have hl := ((s.errorOf_update_eq_ok_iff p).mp hok).1
    exact (h.complete_context hok ((s.takeIn_lifecycle p).trans hl)).1
  | finalize =>
    obtain ⟨hhash, -, hvalid, htotal⟩ := h.context (s.errorOf_finalize_eq_ok_iff.mp hok)
    exact State.closingHash_congr hhash hvalid htotal
  | digest p =>
    have hn := (s.errorOf_digest_eq_ok_iff p).mp hok
    exact (s.digest_absorbed hn).closingHash.trans (t.digest_absorbed hn).closingHash.symm

theorem ObsEq.complete {s t : State} (h : ObsEq s t) {i : Instr} (hok : s.errorOf i = .ok) :
    ObsEq (s.complete i) (t.complete i) := by
  have hstatus := State.statusNow_congr (h.complete_lifecycle i) (fun ha => (h.complete_context hok ha).2.1) .ok
  refine ⟨h.complete_lifecycle i, ?_, ?_, ?_, h.complete_context hok⟩
  · rw [State.complete_outstanding, State.complete_outstanding]
  · rw [State.complete_host, State.complete_host, h.host]
  · rw [State.complete_responses, State.complete_responses, hstatus, h.complete_hash hok, h.responses]

theorem perform_obsEq {s t : State} (h : ObsEq s t) (c : Command) :
    ∃ u v, perform c s = .next u ∧ perform c t = .next v ∧ ObsEq u v := by
  cases hd : decode c with
  | illegal why => exact ⟨_, _, perform_illegal s hd, perform_illegal t hd, h.raise _⟩
  | legal i =>
    rw [perform_legal s hd, perform_legal t hd]
    by_cases hok : s.errorOf i = .ok
    · exact ⟨_, _, exec_of_errorOf_ok hok, exec_of_errorOf_ok (h.errorOf i ▸ hok), h.complete hok⟩
    · exact ⟨_, _, exec_of_errorOf rfl hok, exec_of_errorOf (h.errorOf i).symm hok, h.raise _⟩

theorem ObsEq.afterTurn {s t : State} (h : ObsEq s t) : ObsEq s.afterTurn t.afterTurn := by
  unfold State.afterTurn
  rw [← h.host]
  split
  · exact ⟨h.lifecycle, h.outstanding, rfl, h.responses, h.context⟩
  · exact h

/-- The four turns are told apart by what the two states agree on. -/
theorem step_obsEq {s t : State} (h : ObsEq s t) : ∃ u v, step s = .next u ∧ step t = .next v ∧ ObsEq u v := by
  rcases s.turn_cases with ⟨rest, hh⟩ | ⟨c, ho, hu⟩ | ⟨ho, hh⟩ | ⟨ho, c, rest, hh⟩
  · exact ⟨_, _, step_reset hh, step_reset (h.host ▸ hh), rfl, rfl, rfl, h.responses, fun ha => by cases ha⟩
  · have hu' : t.undisturbed := fun rest hr => hu rest (h.host.trans hr)
    rw [step_performs ho hu, step_performs (h.outstanding ▸ ho) hu']
    exact perform_obsEq h.afterTurn c
  · exact ⟨_, _, step_idles ho hh, step_idles (h.outstanding ▸ ho) (h.host ▸ hh), h.lifecycle, h.outstanding,
      congrArg List.tail h.host, h.responses, h.context⟩
  · exact ⟨_, _, step_issues ho hh, step_issues (h.outstanding ▸ ho) (h.host ▸ hh), h.lifecycle, rfl, rfl,
      h.responses, h.context⟩

theorem steps_obsEq (n : Nat) {s t : State} (h : ObsEq s t) :
    ∃ u v, steps n s = .next u ∧ steps n t = .next v ∧ ObsEq u v := by
  induction n generalizing s t with
  | zero => exact ⟨s, t, rfl, rfl, h⟩
  | succ n ih =>
    obtain ⟨u, v, hu, hv, huv⟩ := step_obsEq h
    rw [steps, steps, hu, hv]
    exact ih huv

/-- UNINIT states agree on all that is read if they agree on the host's side. -/
theorem obsEq_of_uninit {s t : State} (hs : s.lifecycle = .uninit) (ht : t.lifecycle = .uninit)
    (ho : s.outstanding = t.outstanding) (hh : s.host = t.host) (hr : s.responses = t.responses) : ObsEq s t :=
  ⟨hs.trans ht.symm, ho, hh, hr, fun ha => by simp [hs] at ha⟩

/-! ### Engines side by side -/

/-- The state after a step, as a function of one engine's. -/
def State.stepped (s : State) : State :=
  match step s with
  | .next t => t
  | .fault _ => s
  | .refused _ => s

theorem step_eq_stepped (s : State) : step s = .next s.stepped := by
  obtain ⟨t, ht⟩ := step_answers s
  rw [State.stepped, ht]

/-- A step at position `k` rewrites that place of the platform and nothing else (log entry 12). -/
theorem Platform.stepAt_eq (p : Platform) (k : Nat) : p.stepAt k = .next (p.modify k State.stepped) := by
  rw [Platform.stepAt, List.modify_eq_set_getElem?]
  cases p[k]? with
  | none => rfl
  | some s =>
    simp only [step_eq_stepped]
    rfl

/-- Rewriting two different positions, in either order. -/
theorem modify_modify_of_ne {α : Type} (f : α → α) (l : List α) {j k : Nat} (hjk : j ≠ k) :
    (l.modify j f).modify k f = (l.modify k f).modify j f := by
  apply List.ext_getElem?
  intro i
  rcases eq_or_ne j i with rfl | hj
  · simp [hjk.symm]
  · simp [List.getElem?_modify, hj]

/-! ### The statements -/

/-- Settles O35: whichever turn the step is, both states take it and answer alike. -/
theorem stepHidesUnreadRegisters : Obligations.StepHidesUnreadRegisters :=
  fun _ _ h => step_obsEq h

/-- Settles O36: UNINIT states agree on all that is read, and every step keeps them so. -/
theorem resetRegistersUnobservable : Obligations.ResetRegistersUnobservable := by
  intro n s t hs ht ho hh hr
  obtain ⟨u, v, hu, hv, huv⟩ := steps_obsEq n (obsEq_of_uninit hs ht ho hh hr)
  exact ⟨u, v, hu, hv, huv.responses⟩

/-- Settles O24: an error is a raised one, and the next command reads only the registers it keeps. -/
theorem errorsAreNotSticky : Obligations.ErrorsAreNotSticky := by
  intro s t c d r h hr he
  obtain ⟨e, rfl⟩ := perform_error_raises h hr he
  exact perform_sameRegisters (s.raise_sameRegisters e) d

/-- Settles O54: a step rewrites one position, from what stands there. -/
theorem instancesShareNothing : Obligations.InstancesShareNothing := by
  refine ⟨fun p k => ?_, fun p p' q q' k hq hq' hk => ?_, fun p q r j k hjk hq hr => ?_⟩
  · exact ⟨_, p.stepAt_eq k, List.length_modify .., fun j hj => List.getElem?_modify_ne _ _ hj.symm⟩
  · rw [Platform.stepAt_eq] at hq hq'
    obtain rfl := Host.Outcome.next.inj hq
    obtain rfl := Host.Outcome.next.inj hq'
    rw [List.getElem?_modify_eq, List.getElem?_modify_eq, hk]
  · rw [Platform.stepAt_eq] at hq
    obtain rfl := Host.Outcome.next.inj hq
    rw [Platform.stepAt_eq, modify_modify_of_ne _ _ hjk] at hr
    exact ⟨_, p.stepAt_eq k, (Platform.stepAt_eq ..).trans hr⟩

end Sys2Proof.Machine
end

section
/-! PROOFS. Byte sequences as big-endian numbers (00_scope.md R17), the length field (41_padding.md R92), and shifts and
rotations bit by bit (00_scope.md R16). -/

namespace Sys2Proof.Machine

/-! ### The number a byte sequence stands for -/

/-- The number that bytes read most significant first stand for. -/
def bigEndianValue (s : List Byte) : Nat := s.foldl (fun acc b => 256 * acc + b.toNat) 0

/-- It is the number whose digits to the base 256 are the bytes, least significant first. -/
theorem bigEndianValue_eq_ofDigits (s : List Byte) :
    bigEndianValue s = Nat.ofDigits 256 (s.reverse.map BitVec.toNat) := by
  rw [bigEndianValue, List.foldl_eq_foldr_reverse, Nat.ofDigits_eq_foldr, List.foldr_map]
  simp only [Nat.cast_id, Nat.add_comm]

theorem bigEndianValue_append_one (s : List Byte) (b : Byte) :
    bigEndianValue (s ++ [b]) = 256 * bigEndianValue s + b.toNat := by
  rw [bigEndianValue, List.foldl_append]
  rfl

theorem digits_lt (s : List Byte) : ∀ d ∈ s.reverse.map BitVec.toNat, d < 256 := by
  intro d hd
  obtain ⟨b, -, rfl⟩ := List.mem_map.mp hd
  exact b.isLt

theorem bigEndianValue_lt (s : List Byte) : bigEndianValue s < 256 ^ s.length := by
  rw [bigEndianValue_eq_ofDigits]
  simpa using Nat.ofDigits_lt_base_pow_length (by decide) (digits_lt s)

theorem bigEndianValue_cons (b : Byte) (s : List Byte) :
    bigEndianValue (b :: s) = b.toNat * 256 ^ s.length + bigEndianValue s := by
  rw [bigEndianValue_eq_ofDigits, bigEndianValue_eq_ofDigits, List.reverse_cons, List.map_append, Nat.ofDigits_append]
  simp [Nat.mul_comm, Nat.add_comm]

/-- Sequences of one length that stand for the same number are the same. -/
theorem bigEndianValue_inj {s t : List Byte} (hlen : s.length = t.length)
    (h : bigEndianValue s = bigEndianValue t) : s = t := by
  rw [bigEndianValue_eq_ofDigits, bigEndianValue_eq_ofDigits] at h
  have hdigits := Nat.ofDigits_inj_of_len_eq (by decide) (by simpa using hlen) (digits_lt s) (digits_lt t) h
  exact List.reverse_injective (List.map_injective_iff.mpr (fun _ _ => BitVec.eq_of_toNat_eq) hdigits)

/-- The bytes written for a number stand for it, as far as they reach. -/
theorem bigEndianValue_toBigEndian {w : Nat} (n : Nat) (v : BitVec w) :
    bigEndianValue (toBigEndian n v) = v.toNat % 256 ^ n := by
  induction n with
  | zero => simp [toBigEndian, bigEndianValue, Nat.mod_one]
  | succ n ih =>
    have hpow : 2 ^ (8 * n) = 256 ^ n := Nat.pow_mul 2 8 n
    have hsucc : 256 ^ (n + 1) = 256 ^ n * 2 ^ 8 := Nat.pow_succ ..
    rw [toBigEndian_succ, bigEndianValue_cons, ih, toBigEndian_length, BitVec.extractLsb'_toNat,
      Nat.shiftRight_eq_div_pow, hpow, hsucc, Nat.mod_mul, Nat.mul_comm, Nat.add_comm]

/-! ### `be64` and `to_be64` -/

/-- One byte read into a word moves the word up by eight bits. -/
theorem shiftLeft_or_toNat (acc : Word) (b : Byte) :
    ((acc <<< 8) ||| b.setWidth 64).toNat = (256 * acc.toNat + b.toNat) % 2 ^ 64 := by
  have hb := b.isLt
  have hacc : acc.toNat * 2 ^ 8 % 2 ^ 64 = (acc.toNat % 2 ^ 56) <<< 8 := by
    rw [Nat.shiftLeft_eq]
    omega
  have hwidth : (b.setWidth 64).toNat = b.toNat := by
    rw [BitVec.toNat_setWidth]
    omega
  rw [BitVec.toNat_or, BitVec.toNat_shiftLeft, Nat.shiftLeft_eq, hwidth, hacc, ← Nat.shiftLeft_add_eq_or_of_lt hb,
    Nat.shiftLeft_eq]
  omega

theorem be64_append_one (s : List Byte) (b : Byte) : be64 (s ++ [b]) = (be64 s <<< 8) ||| b.setWidth 64 := by
  rw [be64, List.foldl_append]
  rfl

/-- `be64` reads the number of the bytes, modulo `2^64`. -/
theorem be64_toNat (s : List Byte) : (be64 s).toNat = bigEndianValue s % 2 ^ 64 := by
  induction s using List.reverseRecOn with
  | nil => rfl
  | append_singleton s b ih =>
    rw [be64_append_one, shiftLeft_or_toNat, ih, bigEndianValue_append_one]
    omega

/-- Eight bytes are read without a loss. -/
theorem be64_toNat_of_length {s : List Byte} (h : s.length = 8) : (be64 s).toNat = bigEndianValue s := by
  have hlt := bigEndianValue_lt s
  rw [h] at hlt
  rw [be64_toNat, Nat.mod_eq_of_lt (by omega)]

theorem bigEndianValue_toBe64 (w : Word) : bigEndianValue (toBe64 w) = w.toNat := by
  have hlt := w.isLt
  rw [toBe64, bigEndianValue_toBigEndian, Nat.mod_eq_of_lt (by omega)]

theorem be64_toBe64 (w : Word) : be64 (toBe64 w) = w :=
  BitVec.eq_of_toNat_eq ((be64_toNat_of_length (toBe64_length w)).trans (bigEndianValue_toBe64 w))

theorem toBe64_be64 {s : List Byte} (h : s.length = 8) : toBe64 (be64 s) = s :=
  bigEndianValue_inj ((toBe64_length _).trans h.symm) ((bigEndianValue_toBe64 _).trans (be64_toNat_of_length h))

/-! ### The statements -/

/-- Settles O45: reading and writing go through the number the bytes stand for. -/
theorem bigEndianWords : Obligations.BigEndianWords := by
  refine ⟨fun b0 b1 b2 b3 b4 b5 b6 b7 => ?_, be64_toBe64, fun s hs => toBe64_be64 hs⟩
  rw [be64_toNat_of_length rfl]
  simp only [bigEndianValue, List.foldl_cons, List.foldl_nil]
  omega

/-- Settles O42: within `MAX_BYTES` eight times the count fits the 16 bytes of the field. -/
theorem lengthFieldExact : Obligations.LengthFieldExact := by
  intro total hn
  refine ⟨toBe128_length _, ?_⟩
  have hbits : (8 * total).toNat = 8 * total.toNat := by
    have hcoeff : (8 : BitVec 128).toNat = 8 := rfl
    rw [BitVec.toNat_mul, hcoeff, Nat.mod_eq_of_lt (by omega)]
  calc bigEndianValue (lengthField total)
    _ = (8 * total).toNat % 256 ^ 16 := bigEndianValue_toBigEndian 16 _
    _ = (8 * total).toNat := Nat.mod_eq_of_lt (8 * total).isLt
    _ = 8 * total.toNat := hbits

/-- Settles O46: a shift moves each bit down and leaves zeros above, a rotation goes round the word. -/
theorem shiftAndRotateBits : Obligations.ShiftAndRotateBits := by
  intro x n i _ hn hi
  refine ⟨?_, rotr_getLsbD x hn hi⟩
  rw [shr, BitVec.getLsbD_ushiftRight, Nat.add_comm]
  by_cases hlow : i + n < 64
  · simp [hlow]
  · simp [hlow, BitVec.getLsbD_of_ge x (i + n) (by omega)]

end Sys2Proof.Machine
end
